-- ==== Sys2Proof/Word.lean ====
section
/-! DEFINITION. The word types of the MBPE: one-bit levels, bytes and 32-bit port words
(00_scope.md R11: unsigned, bit 0 least significant). -/

namespace Sys2Proof

/-- One bit of a register or a pin level: 1 is HIGH, 0 is LOW (10_state.md R41). -/
abbrev Bit := BitVec 1

/-- An 8-bit value: a character code, a segment pattern, a wire byte or a duration in seconds. -/
abbrev Byte := BitVec 8

/-- A whole command word or STATUS word (20_memory.md R74). -/
abbrev Word := BitVec 32

end Sys2Proof
end

