-- ==== Sys2Proof/Config.lean ====
section
/-! DEFINITION. The free values: what the spec says takes any value or is an open parameter.
Each is opaque, so nothing can be proved of the value it takes. The parameters that have a
default (SEG_LUT, the command bytes, ACK_SEQ) are data of State instead, see Machine/Params.lean. -/

namespace Sys2Proof

/-- The level a latch or lamp takes after the `n`-th failed pin write: any value
(41_serial_bus.md R159, 43_traffic_light.md R229; log entry 4). A statement about it holds whatever it is. -/
opaque Config.failedLevel : Nat → Bit

/-- The level on the DIO wire seen as an input at the `n`-th step: a draw under no law
(10_state.md R42, 93 U7; log entry 5). -/
opaque Config.dioInput : Nat → Bit

/-- Which of the six orders CLK, DIO and its direction change in when they jump in the `n`-th reset step: not defined by
the spec (70_reset_and_hazards.md R281, 93 U8; log entry 6). -/
opaque Config.resetJumpOrder : Nat → Fin 6

/-- The local time, hour and minute, that the host reads at the `n`-th step: host state the block does not see
(60_exceptions.md R265, 42_host_display_ops.md R189; log entry 13). -/
opaque Config.localTime : Nat → Nat × Nat

/-- The four characters the host's CLOCK shows for an hour and a minute: the open parameter
CLOCK_FMT (00_scope.md R10, 92 D33; log entry 13). -/
opaque Config.clockFmt : Nat → Nat → Byte × Byte × Byte × Byte

end Sys2Proof
end

