-- ==== Sys2Proof/Syntax.lean ====
section
/-! DEFINITION. The twelve commands of the host command port (30_encoding.md R91, R93): one
constructor per row of spec/opcode_table.json, operands in the order of the assembler text (R107)
and at the widths of R92. -/

namespace Sys2Proof

/-- A command, as syntax. Every operand is an unsigned bit field (30_encoding.md R92). -/
inductive Instr where
  /-- ENCODE char, point (40_seg_encoder.md R127). -/
  | encodeChar (char : Byte) (point : Bit)
  /-- BUS_START (41_serial_bus.md R149). -/
  | busStart
  /-- BUS_STOP (41_serial_bus.md R150). -/
  | busStop
  /-- BUS_WRITE byte (41_serial_bus.md R151). -/
  | busWrite (byte : Byte)
  /-- SEG_LOAD idx, byte (41_serial_bus.md R152). -/
  | segLoad (idx : BitVec 3) (byte : Byte)
  /-- SEG_LOAD_CHAR idx, char, point (41_serial_bus.md R153). -/
  | segLoadChar (idx : BitVec 3) (char : Byte) (point : Bit)
  /-- SET_SEGMENTS addr, n (41_serial_bus.md R155). -/
  | setSegments (addr : BitVec 4) (n : BitVec 4)
  /-- SET_BRIGHTNESS level (41_serial_bus.md R154). -/
  | setBrightness (level : BitVec 3)
  /-- TL_CONFIG sel, value (43_traffic_light.md R212). -/
  | tlConfig (sel : BitVec 2) (value : Byte)
  /-- TL_START (43_traffic_light.md R214). -/
  | tlStart
  /-- TL_STOP (43_traffic_light.md R224). -/
  | tlStop
  /-- TL_CB_ENABLE en (43_traffic_light.md R213). -/
  | tlCbEnable (en : Bit)
  deriving DecidableEq, Repr

end Sys2Proof
end

