-- ==== Sys2Proof/WellFormed.lean ====
section
/-! DEFINITION. When a command's operands lie in the ranges the spec calls legal (30_encoding.md R92).
A command outside them still decodes and is still accepted: its own rule then raises InvalidArgument
(60_exceptions.md R255). The machine makes its own checks in Machine/Operands.lean. -/

namespace Sys2Proof

/-- The operands of the command are legal: IDX 0 to 5, ADDR 0 to 5 with ADDR + N at most 6 (summed at
full width, 00_scope.md R16), SEL 0 to 2; every other field is legal at every value. -/
def Instr.wellFormed (i : Instr) : Bool :=
  match i with
  | .segLoad idx _ => decide (idx.toNat ≤ 5)
  | .segLoadChar idx _ _ => decide (idx.toNat ≤ 5)
  | .setSegments addr n => decide (addr.toNat ≤ 5) && decide (addr.toNat + n.toNat ≤ 6)
  | .tlConfig sel _ => decide (sel.toNat ≤ 2)
  | .encodeChar _ _ => true
  | .busStart => true
  | .busStop => true
  | .busWrite _ => true
  | .setBrightness _ => true
  | .tlStart => true
  | .tlStop => true
  | .tlCbEnable _ => true

/-- The command is well formed. -/
abbrev Instr.WellFormed (i : Instr) : Prop := i.wellFormed = true

end Sys2Proof
end

