-- ==== Sys2Proof/Decode.lean ====
section
/-! DEFINITION. The decoder of command words, total on every 32-bit word (30_encoding.md R97), and the
encoder. A word has one length and one format family (R90). -/

namespace Sys2Proof

/-- Why a word is IllegalCommand (30_encoding.md R96): its OP is reserved (R94), or its OP is a command's
but a reserved-zero bit is set (R95). -/
inductive DecodeError where
  | reservedOp (op : BitVec 4)
  | reservedBits (op : BitVec 4)
  deriving DecidableEq, Repr

/-- The operation code, bits [31:28] (30_encoding.md R90). -/
def opOf (w : Word) : BitVec 4 := w.extractLsb' 28 4

/-- The word is of the serial class, which is known from OP alone: OP 0x2 to 0x8
(30_encoding.md R95, 41_serial_bus.md R142). -/
def isSerialWord (w : Word) : Bool := decide (2 ≤ (opOf w).toNat) && decide ((opOf w).toNat ≤ 8)

/-- The command is of the serial class (30_encoding.md R93, column "class"). -/
def isSerialInstr (i : Instr) : Bool :=
  match i with
  | .encodeChar _ _ => false
  | .busStart => true
  | .busStop => true
  | .busWrite _ => true
  | .segLoad _ _ => true
  | .segLoadChar _ _ _ => true
  | .setSegments _ _ => true
  | .setBrightness _ => true
  | .tlConfig _ _ => false
  | .tlStart => false
  | .tlStop => false
  | .tlCbEnable _ => false

/-- A row of the opcode map (30_encoding.md R93): the word is the row's when `w &&& mask = pattern`; `build`
takes the operand fields of R92 out of it. -/
structure OpcodeRow where
  pattern : Word
  mask : Word
  build : Word → Instr

/-- The opcode map (30_encoding.md R93) with the fields of R92. -/
def opcodeRows : List OpcodeRow :=
  [ { pattern := 0x10000000#32, mask := 0xFFFFFE00#32,
      build := fun w => .encodeChar (w.extractLsb' 0 8) (w.extractLsb' 8 1) },
    { pattern := 0x20000000#32, mask := 0xFFFFFFFF#32, build := fun _ => .busStart },
    { pattern := 0x30000000#32, mask := 0xFFFFFFFF#32, build := fun _ => .busStop },
    { pattern := 0x40000000#32, mask := 0xFFFFFF00#32, build := fun w => .busWrite (w.extractLsb' 0 8) },
    { pattern := 0x50000000#32, mask := 0xFFF8FF00#32,
      build := fun w => .segLoad (w.extractLsb' 16 3) (w.extractLsb' 0 8) },
    { pattern := 0x60000000#32, mask := 0xFFF8FE00#32,
      build := fun w => .segLoadChar (w.extractLsb' 16 3) (w.extractLsb' 0 8) (w.extractLsb' 8 1) },
    { pattern := 0x70000000#32, mask := 0xFFF0FFF0#32,
      build := fun w => .setSegments (w.extractLsb' 16 4) (w.extractLsb' 0 4) },
    { pattern := 0x80000000#32, mask := 0xFFFFFFF8#32, build := fun w => .setBrightness (w.extractLsb' 0 3) },
    { pattern := 0x90000000#32, mask := 0xFFFCFF00#32,
      build := fun w => .tlConfig (w.extractLsb' 16 2) (w.extractLsb' 0 8) },
    { pattern := 0xA0000000#32, mask := 0xFFFFFFFF#32, build := fun _ => .tlStart },
    { pattern := 0xB0000000#32, mask := 0xFFFFFFFF#32, build := fun _ => .tlStop },
    { pattern := 0xC0000000#32, mask := 0xFFFFFFFE#32, build := fun w => .tlCbEnable (w.extractLsb' 0 1) } ]

/-- Why a word that no row takes is illegal. -/
def illegalReason (w : Word) : DecodeError :=
  if (opOf w).toNat = 0 ∨ 13 ≤ (opOf w).toNat then .reservedOp (opOf w) else .reservedBits (opOf w)

/-- The decoder (30_encoding.md R97): the first row whose pattern the word has, else IllegalCommand. -/
def decode (w : Word) : Except DecodeError Instr :=
  match opcodeRows.find? (fun r => w &&& r.mask == r.pattern) with
  | some r => .ok (r.build w)
  | none => .error (illegalReason w)

/-- The encoder: OP, the operand fields of 30_encoding.md R91 at their places, reserved bits zero. -/
def encode (i : Instr) : Word :=
  match i with
  | .encodeChar char point => 0x1#4 ++ (0#19 ++ (point ++ char))
  | .busStart => 0x20000000#32
  | .busStop => 0x30000000#32
  | .busWrite byte => 0x4#4 ++ (0#20 ++ byte)
  | .segLoad idx byte => 0x5#4 ++ (0#9 ++ (idx ++ (0#8 ++ byte)))
  | .segLoadChar idx char point => 0x6#4 ++ (0#9 ++ (idx ++ (0#7 ++ (point ++ char))))
  | .setSegments addr n => 0x7#4 ++ (0#8 ++ (addr ++ (0#12 ++ n)))
  | .setBrightness level => 0x8#4 ++ (0#25 ++ level)
  | .tlConfig sel value => 0x9#4 ++ (0#10 ++ (sel ++ (0#8 ++ value)))
  | .tlStart => 0xA0000000#32
  | .tlStop => 0xB0000000#32
  | .tlCbEnable en => 0xC#4 ++ (0#27 ++ en)

/-- The command word whose bits are `w`, of which the table gives the lowest `nbits`: every bit above is 0.
The ports carry whole 32-bit words with no byte lanes (20_memory.md R74), so the table's numbering is the
word's own. -/
def tableWord (nbits w : Nat) : Word := BitVec.ofNat 32 (w % 2 ^ nbits)

/-- What the decoder reads from a table word; none where it refuses. -/
def decodeTableWord (nbits w : Nat) : Option Instr :=
  match decode (tableWord nbits w) with
  | .ok i => some i
  | .error _ => none

end Sys2Proof
end

