-- ==== Sys2Proof/Machine/Params.lean ====
section
/-! DEFINITION. Pin events, and the parameters of 00_scope.md R10 as one record, held in State and written by no step.
DISP_ON, which the rule fixes, is a constant. -/

namespace Sys2Proof.Machine

/-- The data line's direction (10_state.md R41). -/
inductive Dir where
  | input
  | output
  deriving DecidableEq, Repr

/-- A pin event of the serial engine (00_scope.md R13): `CLK <- b`, `DIO <- b` or `DIR <- d`. -/
inductive PinEvent where
  | clk (b : Bit)
  | dio (b : Bit)
  | dir (d : Dir)
  deriving DecidableEq, Repr

/-- The parameters of 00_scope.md R10 that are numbers. The other rules of the spec write the default's number in their
place; what the model does at another value is its own choice (log entry 21). -/
structure Constants where
  /-- SEG_POSITIONS, the number of display addresses the engine accepts. -/
  segPositions : Nat
  /-- SEG_BUF_DEPTH, the entries of the segment buffer, at most the six of 10_state.md R40. -/
  segBufDepth : Nat
  /-- BRIGHT_RESET, the brightness level after reset. -/
  brightReset : BitVec 3
  /-- TL_SEC_WIDTH, the width of a traffic duration register. -/
  tlSecWidth : Nat
  /-- TL_DEFAULTS, the red seconds after reset. -/
  tlRedReset : Byte
  /-- TL_DEFAULTS, the amber seconds after reset. -/
  tlAmberReset : Byte
  /-- TL_DEFAULTS, the green seconds after reset. -/
  tlGreenReset : Byte
  /-- TL_GREEN_MIN, the smallest green duration TL_START accepts (43_traffic_light.md R215). -/
  tlGreenMin : Byte
  /-- TL_BLINK_REPS, the repetitions of the blink tail, two half-second slots each (43_traffic_light.md R223). -/
  tlBlinkReps : Nat
  /-- TICKS_PER_SEC, TICK strobes per second (43_traffic_light.md R222). -/
  ticksPerSec : Nat
  deriving DecidableEq, Repr

/-- The defaults of 00_scope.md R10, which are the MBPE's own numbers. -/
def mbpeConstants : Constants :=
  { segPositions := 6, segBufDepth := 6, brightReset := 7, tlSecWidth := 8, tlRedReset := 10, tlAmberReset := 3,
    tlGreenReset := 10, tlGreenMin := 5, tlBlinkReps := 3, ticksPerSec := 2 }

/-- The parameters a model takes as arguments (00_scope.md R10; log entries 7 and 21). -/
structure Params where
  /-- SEG_LUT, the ROM from index 0..38 to an 8-bit pattern (10_state.md R44). -/
  segLut : Vector Byte 39
  /-- CMD_DATA, the "data write" command byte (30_encoding.md R100). -/
  cmdData : Byte
  /-- CMD_ADDR, the "set address" base byte (30_encoding.md R100). -/
  cmdAddr : Byte
  /-- CMD_CTRL, the "display control" base byte (30_encoding.md R100). -/
  cmdCtrl : Byte
  /-- ACK_SEQ, the pin events of the acknowledgement step (41_serial_bus.md R146). -/
  ackSeq : List PinEvent
  /-- The parameters that are numbers. -/
  consts : Constants
  deriving DecidableEq, Repr

/-- The default SEG_LUT (40_seg_encoder.md R124): digits, letters, then space, dash, star.
PRESUMED by the spec itself, from general knowledge (log entry 7). -/
def defaultSegLut : Vector Byte 39 :=
  #v[0x3F, 0x06, 0x5B, 0x4F, 0x66, 0x6D, 0x7D, 0x07, 0x7F, 0x6F,
     0x77, 0x7C, 0x39, 0x5E, 0x79, 0x71, 0x3D, 0x76, 0x06, 0x1E,
     0x76, 0x38, 0x55, 0x54, 0x3F, 0x73, 0x67, 0x50, 0x6D, 0x78,
     0x3E, 0x1C, 0x2A, 0x76, 0x6E, 0x5B, 0x00, 0x40, 0x63]

/-- The default ACK_SEQ (41_serial_bus.md R146). -/
def defaultAckSeq : List PinEvent := [.clk 0#1, .dir .input, .clk 1#1, .clk 0#1, .dir .output]

/-- The defaults of 00_scope.md R10, which are the MBPE's values. -/
def defaultParams : Params :=
  { segLut := defaultSegLut, cmdData := 0x40#8, cmdAddr := 0xC0#8, cmdCtrl := 0x80#8, ackSeq := defaultAckSeq,
    consts := mbpeConstants }

/-- The constraint the source puts on the command bytes: the low nibbles of CMD_ADDR and CMD_CTRL are 0
(30_encoding.md R100). -/
def paramsWf (p : Params) : Bool := p.cmdAddr.extractLsb' 0 4 == 0#4 && p.cmdCtrl.extractLsb' 0 4 == 0#4

/-- DISP_ON, the display-on flag, bit 3 of the control byte: 1, fixed (00_scope.md R10, 30_encoding.md R102). -/
def dispOn : Byte := 1#8

/-- A duration register holds the low TL_SEC_WIDTH bits of what TL_CONFIG writes: all eight by default (10_state.md R45). DESIGN
CHOICE for a TL_SEC_WIDTH other than 8, to which the spec gives no meaning: VALUE is cut to a smaller width, a larger one adds
nothing to its eight bits, and TL_DEFAULTS are not cut (log entry 21). -/
def Constants.seconds (c : Constants) (value : Byte) : Byte := (value.setWidth c.tlSecWidth).setWidth 8

/-- The TICKs of a wait of `s` seconds: 2 s by default, in the 9 bits of TL_CNT, which it then never overflows
(00_scope.md R10 and R16). DESIGN CHOICE for TICKS_PER_SEC of 0 or above 2, to which the spec gives no meaning: the product is
cut to those 9 bits, and a red or amber wait of 0 TICKs is passed through like one of 0 seconds (log entry 21). -/
def Constants.ticksOf (c : Constants) (s : Byte) : BitVec 9 := BitVec.ofNat 9 (c.ticksPerSec * s.toNat)

/-- The TICKs of a half-second slot: 1 by default (43_traffic_light.md R218). DESIGN CHOICE for an odd TICKS_PER_SEC, or one of 0
or above 1023, to which the spec gives no meaning: the half is rounded down and cut to the 9 bits of TL_CNT. A slot of 0 TICKs,
as for 1 TICK a second, leaves TL_CNT = 0, and the next TICK faults with trafficOutOfRange (log entries 8 and 21). -/
def Constants.slotTicks (c : Constants) : BitVec 9 := BitVec.ofNat 9 (c.ticksPerSec / 2)

/-- The seconds of the green phase before its blink tail: the tail's repetitions take a second each, 3 seconds by default
(43_traffic_light.md R217). DESIGN CHOICE for a green duration that is not above TL_BLINK_REPS, which a TL_GREEN_MIN at or below
TL_BLINK_REPS lets through and to which the spec gives no meaning: the difference is taken in 8 bits. At 0 the entry of Green
leaves TL_CNT = 0, and the next TICK faults with trafficOutOfRange; below it wraps to a long wait (log entries 8 and 21). -/
def Constants.steadyGreen (c : Constants) (g : Byte) : Byte := g - BitVec.ofNat 8 c.tlBlinkReps

/-- The last half-second slot of the blink tail: 5 by default (10_state.md R51, 43_traffic_light.md R223). DESIGN CHOICE for
TL_BLINK_REPS of 0 or above 4, to which the spec gives no meaning: 0 repetitions end at slot 0, and the slot is cut to the 3
bits of TL_BLINK, so that 5 repetitions end at slot 1 (log entry 21). With 0 repetitions that slot ends with green lit. -/
def Constants.lastBlinkSlot (c : Constants) : BitVec 3 := BitVec.ofNat 3 (2 * c.tlBlinkReps - 1)

end Sys2Proof.Machine
end

