-- ==== Sys2Proof/Machine/State.lean ====
section
/-! DEFINITION. The machine's state as plain data, the reasons a step can stop, and the state after reset
(10_state.md R30 to R55). The block has no general registers, no program counter and no addressed memory
(R30, R31, 20_memory.md R70). -/

namespace Sys2Proof.Machine

/-- The phases of the traffic cycle (10_state.md R48). -/
inductive Phase where
  | red
  | green
  | greenBlink
  | amber
  deriving DecidableEq, Repr

/-- The three lamps (10_state.md R52). -/
inductive Lamp where
  | red
  | amber
  | green
  deriving DecidableEq, Repr

/-- The values ERR_CODE takes (60_exceptions.md R251); codes 6 and 7 are never written (93 U11). -/
inductive ErrCode where
  | ok
  | invalidCharacter
  | invalidConfiguration
  | invalidArgument
  | illegalCommand
  | pinFailure
  deriving DecidableEq, Repr

/-- An entry of the wire trace: an event the engine performed, or the failure marker of one
(41_serial_bus.md R141, R159). -/
inductive WireRecord where
  | performed (e : PinEvent)
  | failed (e : PinEvent)
  deriving DecidableEq, Repr

/-- A phase notification: PH_CODE and PH_DUR (43_traffic_light.md R228). -/
structure PhaseEvent where
  code : BitVec 2
  duration : Byte
  deriving DecidableEq, Repr

/-- An entry of the fault record: PinFailure, with the pin and the event (60_exceptions.md R262). -/
inductive PinFailure where
  | bus (e : PinEvent)
  | lamp (l : Lamp) (level : Bit)
  deriving DecidableEq, Repr

/-- A reset: how long the wire trace was, and the levels the pins jumped from (70_reset_and_hazards.md R281;
log entry 6). -/
structure ResetMark where
  position : Nat
  clk : Bit
  dio : Bit
  dir : Dir
  deriving DecidableEq, Repr

/-- Whose step comes next (00_scope.md R8): the host's caller thread, the host's display task, the serial engine, the
traffic FSM at a TICK strobe, or the environment presenting RST (log entry 1). -/
inductive Turn where
  | host
  | task
  | serial
  | tick
  | reset
  deriving DecidableEq, Repr

/-- The display tasks of the host: COUNTDOWN from a number of seconds, and CLOCK (42_host_display_ops.md R188, R189). -/
inductive DisplayTask where
  | countdown (seconds : Nat)
  | clock
  deriving DecidableEq, Repr

/-- Who performs an act of the host: its caller, or its display task. -/
inductive HostThread where
  | caller
  | task
  deriving DecidableEq, Repr

/-- An act of the host agent, of its caller or of its display task (00_scope.md R8, 42_host_display_ops.md R180; log
entry 11). -/
inductive HostAct where
  /-- Issue a command word. -/
  | issue (w : Word)
  /-- Read STATUS, whatever it shows; the word goes to `hostReads` (10_state.md R34). -/
  | readStatus
  /-- Read STATUS until BUSY = 0 (R181). -/
  | waitIdle
  /-- Read STATUS until TL_RUN = 0 (R187). -/
  | waitStopped
  /-- Read STATUS and, if ERR_CODE is not 0, abort the operation: report InvalidCharacter with ERR_CHAR and the position,
  ERR_POS where none is given, and leave the next `n` acts out (R182, R186). -/
  | abandonOnError (n : Nat) (position : Option Nat)
  /-- A wait in real time, which the block does not see; in a display task it is a point where a cancellation is observed
  (R192). -/
  | pause
  /-- CLEAR: request the cancellation of the running display task and clear its handle (R190). -/
  | clear
  /-- Start a display task, once no other is there (R191). -/
  | spawn (task : DisplayTask)
  /-- Wait until the display task has ended (R188). -/
  | join
  /-- Read the local time, show it with the colon on, wait, show it with the colon off, and repeat after the next wait
  (R189). -/
  | clockShow
  deriving DecidableEq, Repr

/-- The host's display task while it runs: what it has still to do, and whether its cancellation is requested, which also
clears its handle (42_host_display_ops.md R190 to R192). -/
structure HostTask where
  acts : List HostAct
  cancelled : Bool
  deriving DecidableEq, Repr

/-- An error a host operation ended with: InvalidCharacter, with the character and its position in the text
(42_host_display_ops.md R182, R186). -/
structure HostError where
  char : Byte
  position : Nat
  deriving DecidableEq, Repr

/-- Reasons a step can stop with a fault. -/
inductive Fault where
  /-- Raised by a TICK step of a running cycle whose count, green duration or blink slot has a value the spec says
  never occurs (10_state.md R51, 43_traffic_light.md R217, R222; log entry 8). Safe: the spec gives such a state no
  meaning, and no run of the MBPE from reset reaches one. With other numbers than its own a run can (log entry 21). -/
  | trafficOutOfRange
  deriving DecidableEq, Repr

/-- Reasons an instruction can be refused. -/
inductive Refusal where
  /-- Raised by exec for an instruction that has no meaning yet (none is left). Safe: the model stops. -/
  | notModelled (mnemonic : String)
  deriving DecidableEq, Repr

/-- The state of one MBPE instance. -/
structure State where
  /-- CLK_OUT, the clock line's output latch (10_state.md R41). -/
  clkOut : Bit
  /-- DIO_OUT, the data line's output latch (10_state.md R41). -/
  dioOut : Bit
  /-- DIO_DIR, the data line's direction (10_state.md R41). -/
  dioDir : Dir
  /-- Q, the pending pin events, next first (10_state.md R43). -/
  q : List PinEvent
  /-- BRIGHT (10_state.md R39). -/
  bright : BitVec 3
  /-- SEG_BUF[0..5] (10_state.md R40). -/
  segBuf : Vector Byte 6
  /-- RESULT (10_state.md R38). -/
  result : Byte
  /-- ERR_CODE (10_state.md R36). -/
  errCode : ErrCode
  /-- ERR_CHAR (10_state.md R37). -/
  errChar : Byte
  /-- ERR_POS (10_state.md R37). -/
  errPos : BitVec 3
  /-- TL_CFG_RED (10_state.md R45). -/
  tlCfgRed : Byte
  /-- TL_CFG_AMBER (10_state.md R45). -/
  tlCfgAmber : Byte
  /-- TL_CFG_GREEN (10_state.md R45). -/
  tlCfgGreen : Byte
  /-- TL_CB_EN (10_state.md R46). -/
  tlCbEn : Bit
  /-- TL_RUN (10_state.md R47). -/
  tlRun : Bit
  /-- TL_PHASE (10_state.md R48). -/
  tlPhase : Phase
  /-- TL_R (10_state.md R49). -/
  tlR : Byte
  /-- TL_A (10_state.md R49). -/
  tlA : Byte
  /-- TL_G (10_state.md R49). -/
  tlG : Byte
  /-- TL_CNT (10_state.md R50). -/
  tlCnt : BitVec 9
  /-- TL_BLINK (10_state.md R51). -/
  tlBlink : BitVec 3
  /-- LAMP_R (10_state.md R52). -/
  lampR : Bit
  /-- LAMP_A (10_state.md R52). -/
  lampA : Bit
  /-- LAMP_G (10_state.md R52). -/
  lampG : Bit
  /-- SEG_LUT and the other parameters (00_scope.md R10, 10_state.md R44). -/
  params : Params
  /-- The word presented on the command port and not yet accepted, a held command (10_state.md R32). -/
  port : Option Word
  /-- The host thread whose word is on the command port, or was there last (log entry 11). -/
  portThread : HostThread
  /-- The wire trace, oldest first (00_scope.md R9). -/
  wireTrace : List WireRecord
  /-- The phase-event trace, oldest first (00_scope.md R9). -/
  phaseTrace : List PhaseEvent
  /-- The fault record, oldest first (10_state.md R54). -/
  faults : List PinFailure
  /-- The resets so far, oldest first (70_reset_and_hazards.md R281; log entry 6). -/
  resetMarks : List ResetMark
  /-- The model's own: whose steps come next (log entry 1). -/
  turns : List Turn
  /-- The model's own: what the host's caller still has to do (log entry 11). -/
  hostProg : List HostAct
  /-- The host's display task, at most one (42_host_display_ops.md R191; log entry 11). -/
  hostTask : Option HostTask
  /-- The errors host operations ended with, oldest first (42_host_display_ops.md R182, R186; log entry 11). -/
  hostErrors : List HostError
  /-- The STATUS words the host read for themselves, oldest first (10_state.md R34; log entry 11). -/
  hostReads : List Word
  /-- The model's own: the answers to the coming pin writes, true = PIN_FAULT asserted; past the list's end the
  answer is ok (10_state.md R53; log entry 3). -/
  pinFaults : List Bool
  /-- The model's own: agent steps taken, the index of the free DIO_IN level (log entry 5). -/
  stepNo : Nat
  /-- The model's own: failed pin writes so far, the index of the free latch level (log entry 4). -/
  draws : Nat
  deriving DecidableEq, Repr

/-- A block with the parameters `p` right after reset (10_state.md R55), traces and fault record empty as at launch
(R54, R55), and nothing scheduled (log entries 2 and 14). -/
def State.resetWith (p : Params) : State where
  clkOut := 1#1
  dioOut := 1#1
  dioDir := .output
  q := []
  bright := p.consts.brightReset
  segBuf := Vector.replicate 6 0#8
  result := 0#8
  errCode := .ok
  errChar := 0#8
  errPos := 0#3
  tlCfgRed := p.consts.tlRedReset
  tlCfgAmber := p.consts.tlAmberReset
  tlCfgGreen := p.consts.tlGreenReset
  tlCbEn := 0#1
  tlRun := 0#1
  tlPhase := .red
  tlR := p.consts.tlRedReset
  tlA := p.consts.tlAmberReset
  tlG := p.consts.tlGreenReset
  tlCnt := 0#9
  tlBlink := 0#3
  lampR := 0#1
  lampA := 0#1
  lampG := 0#1
  params := p
  port := none
  portThread := .caller
  wireTrace := []
  phaseTrace := []
  faults := []
  resetMarks := []
  turns := []
  hostProg := []
  hostTask := none
  hostErrors := []
  hostReads := []
  pinFaults := []
  stepNo := 0
  draws := 0

/-- The machine right after reset, with the default parameters (10_state.md R55, 00_scope.md R10). -/
def State.reset : State := State.resetWith defaultParams

/-- The block has the MBPE's own numbers, the defaults of 00_scope.md R10. -/
abbrev State.IsMbpe (s : State) : Prop := s.params.consts = mbpeConstants

end Sys2Proof.Machine
end

