-- ==== Sys2Proof/Machine/Flags.lean ====
section
/-! DEFINITION. The codes of the named values and the STATUS word (10_state.md R33 to R38). The block has no
condition flags: what the common template calls flags are the STATUS fields (00_scope.md R14). -/

namespace Sys2Proof.Machine

/-- ERR_CODE's 3 bits (60_exceptions.md R251). -/
def errCodeBits (e : ErrCode) : BitVec 3 :=
  match e with
  | .ok => 0
  | .invalidCharacter => 1
  | .invalidConfiguration => 2
  | .invalidArgument => 3
  | .illegalCommand => 4
  | .pinFailure => 5

/-- TL_PHASE's 2 bits, also PH_CODE (10_state.md R48, 43_traffic_light.md R210). -/
def phaseBits (p : Phase) : BitVec 2 :=
  match p with
  | .red => 0
  | .green => 1
  | .greenBlink => 2
  | .amber => 3

/-- BUSY = (Q != []) (10_state.md R35). -/
def State.busy (s : State) : Bool := !s.q.isEmpty

/-- The STATUS word (10_state.md R34), from bit 31 down: BRIGHT, LAMP_G, LAMP_A, LAMP_R, RESULT, TL_PHASE, TL_RUN,
ERR_POS, ERR_CHAR, ERR_CODE, BUSY. Reading it has no side effect, so it is a function of the state. -/
def State.status (s : State) : Word :=
  s.bright ++ (s.lampG ++ (s.lampA ++ (s.lampR ++ (s.result ++ (phaseBits s.tlPhase ++ (s.tlRun
    ++ (s.errPos ++ (s.errChar ++ (errCodeBits s.errCode ++ BitVec.ofBool s.busy)))))))))

end Sys2Proof.Machine
end

