-- ==== Sys2Proof/Machine/Operands.lean ====
section
/-! DEFINITION. The range checks of operands (30_encoding.md R92, 60_exceptions.md R255) and the character encoder
(40_seg_encoder.md R120 to R126), which ENCODE and SEG_LOAD_CHAR share. -/

namespace Sys2Proof.Machine

/-- IDX addresses an entry of the segment buffer, 0 to 5 by default (20_memory.md R71). DESIGN CHOICE for a SEG_BUF_DEPTH above
the six entries of 10_state.md R40: IDX 6 and 7 are then in range, and a load to them succeeds and writes nothing
(log entry 21). -/
def idxInRange (c : Constants) (idx : BitVec 3) : Bool := decide (idx.toNat < c.segBufDepth)

/-- ADDR is a display address, 0 to 5 by default, and so are the N from it on, summed at full width
(41_serial_bus.md R155, 00_scope.md R16). DESIGN CHOICE for a SEG_POSITIONS other than 6: it alone bounds ADDR and ADDR + N, and
SEG_BUF_DEPTH does not bound N (log entry 21). -/
def sessionInRange (c : Constants) (addr n : BitVec 4) : Bool :=
  decide (addr.toNat < c.segPositions) && decide (addr.toNat + n.toNat ≤ c.segPositions)

/-- `lo <= c <= hi` on character codes. -/
def codeBetween (lo hi c : Byte) : Bool := decide (lo.toNat ≤ c.toNat) && decide (c.toNat ≤ hi.toNat)

/-- idx(c), the normalised index of a character code, none for INVALID (40_seg_encoder.md R122). Each guarded
subtraction stays within 0 to 35 (00_scope.md R16), so taking it into `Fin 39` changes nothing. -/
def charIndex (c : Byte) : Option (Fin 39) :=
  if codeBetween 0x30#8 0x39#8 c then some (Fin.ofNat 39 (c - 0x30#8).toNat)
  else if codeBetween 0x61#8 0x7A#8 c then some (Fin.ofNat 39 (c - 0x61#8 + 10#8).toNat)
  else if codeBetween 0x41#8 0x5A#8 c then some (Fin.ofNat 39 (c - 0x41#8 + 10#8).toNat)
  else if c = 0x20#8 then some 36
  else if c = 0x2D#8 then some 37
  else if c = 0x2A#8 then some 38
  else none

/-- encode(c, point): the segment pattern with the point in bit 7, none for INVALID (40_seg_encoder.md R126). -/
def encodePattern (p : Params) (c : Byte) (point : Bit) : Option Byte :=
  (charIndex c).map fun i => p.segLut.get i ||| (point.setWidth 8 <<< 7)

end Sys2Proof.Machine
end

