-- ==== Sys2Proof/Machine/Wire.lean ====
section
/-! DEFINITION. The pin-event sequences of the serial engine (41_serial_bus.md R143 to R148), the command
bytes they carry (30_encoding.md R100 to R103), and the level view of a wire trace (R160). -/

namespace Sys2Proof.Machine

/-- START_SEQ (41_serial_bus.md R143). -/
def startSeq : List PinEvent := [.dio 1#1, .clk 1#1, .dio 0#1, .clk 0#1]

/-- STOP_SEQ (41_serial_bus.md R144). -/
def stopSeq : List PinEvent := [.clk 0#1, .dio 0#1, .clk 1#1, .dio 1#1]

/-- The three events of data bit `k` of a byte (41_serial_bus.md R145). -/
def bitSeq (b : Byte) (k : Nat) : List PinEvent := [.clk 0#1, .dio (b.extractLsb' k 1), .clk 1#1]

/-- BITS(b): the eight data bits, least significant first (41_serial_bus.md R145, 20_memory.md R73). -/
def bitsSeq (b : Byte) : List PinEvent :=
  bitSeq b 0 ++ bitSeq b 1 ++ bitSeq b 2 ++ bitSeq b 3 ++ bitSeq b 4 ++ bitSeq b 5 ++ bitSeq b 6 ++ bitSeq b 7

/-- BYTE_SEQ(b): the data bits and the acknowledgement step (41_serial_bus.md R145). -/
def byteSeq (p : Params) (b : Byte) : List PinEvent := bitsSeq b ++ p.ackSeq

/-- TURNAROUND (41_serial_bus.md R147). -/
def turnaround : List PinEvent := stopSeq ++ startSeq

/-- The set-address byte (30_encoding.md R101). -/
def addrByte (p : Params) (a : BitVec 4) : Byte := p.cmdAddr ||| a.setWidth 8

/-- The display-control byte (30_encoding.md R102). -/
def ctrlByte (p : Params) (level : BitVec 3) : Byte := p.cmdCtrl ||| (dispOn <<< 3) ||| level.setWidth 8

/-- SESSION_SEQ(a, P, l), the display session (41_serial_bus.md R148, 90_conflicts.md C1). -/
def sessionSeq (p : Params) (a : BitVec 4) (patterns : List Byte) (level : BitVec 3) : List PinEvent :=
  startSeq ++ byteSeq p p.cmdData ++ turnaround ++ byteSeq p (addrByte p a)
    ++ patterns.flatMap (byteSeq p) ++ turnaround ++ byteSeq p (ctrlByte p level) ++ stopSeq

/-- The three latches of the serial pins (10_state.md R41). -/
structure Pins where
  clk : Bit
  dio : Bit
  dir : Dir
  deriving DecidableEq, Repr

/-- The effect of a performed event on the latches (41_serial_bus.md R141). -/
def performEvent (p : Pins) (e : PinEvent) : Pins :=
  match e with
  | .clk b => { p with clk := b }
  | .dio b => { p with dio := b }
  | .dir d => { p with dir := d }

/-- The effect of a list of performed events on the latches. -/
def performEvents (p : Pins) (es : List PinEvent) : Pins := es.foldl performEvent p

/-- The level view of a trace: its events with no-change events removed, from latches `p`
(41_serial_bus.md R160). -/
def levelChanges (p : Pins) (es : List PinEvent) : List PinEvent :=
  match es with
  | [] => []
  | e :: rest =>
    if performEvent p e = p then levelChanges p rest else e :: levelChanges (performEvent p e) rest

end Sys2Proof.Machine
end

