-- ==== Sys2Proof/Machine/Ops.lean ====
section
/-! DEFINITION. The named operations over the state that the commands and the agents share: acceptance and holding
of a command, the error report that stands in place of exception entry (60_exceptions.md R250, R252, R260; there is
no return, R261), the pin-write answers of the environment, and reset. -/

namespace Sys2Proof.Machine

/-- The outcomes of a step of this machine. -/
abbrev Result := Host.Outcome State Fault Refusal

/-! ### The command port -/

/-- Acceptance takes the word off the command port, which keeps no copy (10_state.md R32). -/
def State.accept (s : State) : State := { s with port := none }

/-- Holding leaves the word presented and does nothing else (41_serial_bus.md R142). -/
def State.hold (s : State) (w : Word) : State := { s with port := some w }

/-- The success of a command: ERR_CODE <- 0 (60_exceptions.md R251). -/
def State.succeed (s : State) : State := { s with errCode := .ok }

/-- The errors a command can raise (60_exceptions.md R253 to R256). -/
inductive CommandError where
  | invalidCharacter (char : Byte) (pos : BitVec 3)
  | invalidConfiguration
  | invalidArgument
  | illegalCommand
  deriving DecidableEq, Repr

/-- `raise E(info)`: the error report, which is all a failing command does (60_exceptions.md R252). -/
def State.raise (s : State) (e : CommandError) : State :=
  match e with
  | .invalidCharacter char pos => { s with errCode := .invalidCharacter, errChar := char, errPos := pos }
  | .invalidConfiguration => { s with errCode := .invalidConfiguration }
  | .invalidArgument => { s with errCode := .invalidArgument }
  | .illegalCommand => { s with errCode := .illegalCommand }

/-- A serial-class command issued by the host: held while BUSY, else accepted, its effect taking place in the
acceptance step (41_serial_bus.md R142, 20_memory.md R78; log entry 9). -/
def serialCommand (i : Instr) (effect : State → State) (s : State) : Result :=
  if s.busy then .next (s.hold (encode i)) else .next (effect s.accept)

/-- An immediate-class command: accepted in the step it is issued (41_serial_bus.md R142). -/
def immediateCommand (effect : State → State) (s : State) : Result := .next (effect s.accept)

/-- `Q <- Q ++ es` (10_state.md R43). -/
def State.enqueue (s : State) (es : List PinEvent) : State := { s with q := s.q ++ es }

/-! ### Pin writes and their failure -/

/-- PIN_FAULT as sampled by the next pin write (10_state.md R53, 60_exceptions.md R257; log entry 3). -/
def State.pinFault (s : State) : Bool := s.pinFaults.headD false

/-- The next pin write's answer is used up. -/
def State.takeAnswer (s : State) : State := { s with pinFaults := s.pinFaults.tail }

/-- The level a failed pin write leaves: any value (41_serial_bus.md R159; log entry 4). -/
def State.failedLevel (s : State) : Bit := Config.failedLevel s.draws

/-- A level read as a direction, for a failed DIR write. -/
def dirOfBit (b : Bit) : Dir := if b = 0#1 then .input else .output

/-- What a pin failure reports, whichever pin it is (60_exceptions.md R257, R262): ERR_CODE <- 5 and an entry of the
fault record; the draw is used up. -/
def State.reportPinFailure (s : State) (f : PinFailure) : State :=
  { s with errCode := .pinFailure, faults := s.faults ++ [f], draws := s.draws + 1 }

/-- The three serial pin latches. -/
def State.pins (s : State) : Pins := { clk := s.clkOut, dio := s.dioOut, dir := s.dioDir }

/-- The latches take the levels `p`. -/
def State.setPins (s : State) (p : Pins) : State := { s with clkOut := p.clk, dioOut := p.dio, dioDir := p.dir }

/-- The level of a lamp. -/
def State.lamp (s : State) (l : Lamp) : Bit :=
  match l with
  | .red => s.lampR
  | .amber => s.lampA
  | .green => s.lampG

/-- The lamp takes level `b`. -/
def State.setLamp (s : State) (l : Lamp) (b : Bit) : State :=
  match l with
  | .red => { s with lampR := b }
  | .amber => { s with lampA := b }
  | .green => { s with lampG := b }

/-- A failed lamp write: the lamp takes any level, the cycle stops, the failure is reported; the rest of the step's
actions are not performed (43_traffic_light.md R229). -/
def State.lampFailure (s : State) (l : Lamp) (b : Bit) : State :=
  ({ s.setLamp l s.failedLevel with tlRun := 0#1 }).reportPinFailure (.lamp l b)

/-- `LAMP_l <- b` and then the rest of the step's actions `rest`, which a failure cuts off
(43_traffic_light.md R229). -/
def lampWrite (l : Lamp) (b : Bit) (rest : State → State) (s : State) : State :=
  if s.pinFault then s.takeAnswer.lampFailure l b else rest (s.takeAnswer.setLamp l b)

/-! ### The ports as seen from outside -/

/-- The level on the DIO wire: DIO_OUT while the engine drives it, else the environment's free level
(10_state.md R41, R42; log entry 5). -/
def State.dioWire (s : State) : Bit :=
  match s.dioDir with
  | .output => s.dioOut
  | .input => Config.dioInput s.stepNo

/-- What the engine drives on DIO: nothing while DIO_DIR = IN (10_state.md R53). -/
def State.dioDrive (s : State) : Option Bit :=
  match s.dioDir with
  | .output => some s.dioOut
  | .input => none

/-- The PH_EVT strobes a step from `s` to `t` presented, in order (43_traffic_light.md R228). -/
def phEvtStrobes (s t : State) : List PhaseEvent := t.phaseTrace.drop s.phaseTrace.length

/-! ### Reset -/

/-- The reset step (70_reset_and_hazards.md R280, 10_state.md R55): every register takes its reset value, a held
command is dropped; SEG_LUT and the other parameters, the fault record and the traces stay (log entry 10). The
jump of the pins is marked (R281; log entry 6), and the environment's own inputs and the host go on. -/
def resetStep (s : State) : State :=
  { State.resetWith s.params with
    wireTrace := s.wireTrace
    phaseTrace := s.phaseTrace
    faults := s.faults
    resetMarks := s.resetMarks
      ++ [{ position := s.wireTrace.length, clk := s.clkOut, dio := s.dioOut, dir := s.dioDir }]
    turns := s.turns
    portThread := s.portThread
    hostProg := s.hostProg
    hostTask := s.hostTask
    hostErrors := s.hostErrors
    hostReads := s.hostReads
    pinFaults := s.pinFaults
    stepNo := s.stepNo
    draws := s.draws }

/-- The pin events of the jump of the `n`-th reset, CLK <- 1, DIO <- 1 and DIR <- OUT, in the order the wire shows them: the
spec leaves it undefined, and here it is any of the six (70_reset_and_hazards.md R281; log entry 6). -/
def resetJump (n : Nat) : List PinEvent :=
  match (Config.resetJumpOrder n).val with
  | 0 => [.clk 1#1, .dio 1#1, .dir .output]
  | 1 => [.clk 1#1, .dir .output, .dio 1#1]
  | 2 => [.dio 1#1, .clk 1#1, .dir .output]
  | 3 => [.dio 1#1, .dir .output, .clk 1#1]
  | 4 => [.dir .output, .clk 1#1, .dio 1#1]
  | _ => [.dir .output, .dio 1#1, .clk 1#1]

/-- The level changes of the `n`-th reset (41_serial_bus.md R160, 70_reset_and_hazards.md R281). -/
def resetLevelChanges (n : Nat) (m : ResetMark) : List PinEvent :=
  levelChanges { clk := m.clk, dio := m.dio, dir := m.dir } (resetJump n)

end Sys2Proof.Machine
end

