-- ==== Sys2Proof/Machine/Encoder.lean ====
section
/-! DEFINITION. ENCODE, the command of the 7-segment character encoder (40_seg_encoder.md R127). -/

namespace Sys2Proof.Machine

/-- ENCODE after acceptance: RESULT takes the pattern, or InvalidCharacter at position 0 leaves RESULT unchanged
(40_seg_encoder.md R127, 10_state.md R38). -/
def encodeEffect (char : Byte) (point : Bit) (s : State) : State :=
  match encodePattern s.params char point with
  | some p => ({ s with result := p }).succeed
  | none => s.raise (.invalidCharacter char 0#3)

/-- ENCODE (40_seg_encoder.md R127): immediate class. -/
def execEncode (char : Byte) (point : Bit) (s : State) : Result := immediateCommand (encodeEffect char point) s

end Sys2Proof.Machine
end

