-- ==== Sys2Proof/Machine/SerialBus.lean ====
section
/-! DEFINITION. The serial-class commands and the bus step of the 2-wire serial engine (41_serial_bus.md). -/

namespace Sys2Proof.Machine

/-- BUS_START (41_serial_bus.md R149). -/
def execBusStart (s : State) : Result := serialCommand .busStart (fun s => (s.enqueue startSeq).succeed) s

/-- BUS_STOP (41_serial_bus.md R150). -/
def execBusStop (s : State) : Result := serialCommand .busStop (fun s => (s.enqueue stopSeq).succeed) s

/-- BUS_WRITE (41_serial_bus.md R151). -/
def execBusWrite (byte : Byte) (s : State) : Result :=
  serialCommand (.busWrite byte) (fun s => (s.enqueue (byteSeq s.params byte)).succeed) s

/-- SEG_LOAD after acceptance (41_serial_bus.md R152). -/
def segLoadEffect (idx : BitVec 3) (byte : Byte) (s : State) : State :=
  if idxInRange s.params.consts idx then ({ s with segBuf := s.segBuf.setIfInBounds idx.toNat byte }).succeed
  else s.raise .invalidArgument

/-- SEG_LOAD (41_serial_bus.md R152). -/
def execSegLoad (idx : BitVec 3) (byte : Byte) (s : State) : Result :=
  serialCommand (.segLoad idx byte) (segLoadEffect idx byte) s

/-- SEG_LOAD_CHAR after acceptance: the index is checked before the character (41_serial_bus.md R153,
60_exceptions.md R258). -/
def segLoadCharEffect (idx : BitVec 3) (char : Byte) (point : Bit) (s : State) : State :=
  if idxInRange s.params.consts idx then
    match encodePattern s.params char point with
    | some p => ({ s with segBuf := s.segBuf.setIfInBounds idx.toNat p }).succeed
    | none => s.raise (.invalidCharacter char idx)
  else s.raise .invalidArgument

/-- SEG_LOAD_CHAR (41_serial_bus.md R153). -/
def execSegLoadChar (idx : BitVec 3) (char : Byte) (point : Bit) (s : State) : Result :=
  serialCommand (.segLoadChar idx char point) (segLoadCharEffect idx char point) s

/-- SEG_BUF[0], ..., SEG_BUF[n-1] (41_serial_bus.md R155): from entry 0 whatever the address is. DESIGN CHOICE where an accepted
N exceeds the buffer, to which the spec gives no meaning: with SEG_BUF_DEPTH below SEG_POSITIONS the entries past the depth are
read as they stand, and with SEG_POSITIONS above 6 an N above 6 gives the six entries there are (log entry 21). -/
def State.patterns (s : State) (n : BitVec 4) : List Byte := s.segBuf.toList.take n.toNat

/-- SET_SEGMENTS after acceptance (41_serial_bus.md R155). -/
def setSegmentsEffect (addr n : BitVec 4) (s : State) : State :=
  if sessionInRange s.params.consts addr n then ({ s with q := sessionSeq s.params addr (s.patterns n) s.bright }).succeed
  else s.raise .invalidArgument

/-- SET_SEGMENTS (41_serial_bus.md R155). -/
def execSetSegments (addr n : BitVec 4) (s : State) : Result :=
  serialCommand (.setSegments addr n) (setSegmentsEffect addr n) s

/-- SET_BRIGHTNESS (41_serial_bus.md R154). -/
def execSetBrightness (level : BitVec 3) (s : State) : Result :=
  serialCommand (.setBrightness level) (fun s => ({ s with bright := level }).succeed) s

/-! ### The bus step -/

/-- The pin failure of a bus step on event `e`: the event's latch takes any value, the failure is marked in the wire
trace, Q is emptied and the failure reported (41_serial_bus.md R159). -/
def State.busFailure (s : State) (e : PinEvent) : State :=
  let left : PinEvent := match e with
    | .clk _ => .clk s.failedLevel
    | .dio _ => .dio s.failedLevel
    | .dir _ => .dir (dirOfBit s.failedLevel)
  ({ s.setPins (performEvent s.pins left) with q := [], wireTrace := s.wireTrace ++ [WireRecord.failed e] }).reportPinFailure
    (.bus e)

/-- The performance of event `e`, leaving `rest` in Q (41_serial_bus.md R141). -/
def State.performHead (s : State) (e : PinEvent) (rest : List PinEvent) : State :=
  { s.setPins (performEvent s.pins e) with q := rest, wireTrace := s.wireTrace ++ [WireRecord.performed e] }

/-- The bus step (41_serial_bus.md R141): exactly one event; with Q empty it is not enabled and nothing happens. -/
def busStep (s : State) : State :=
  match s.q with
  | [] => s
  | e :: rest => if s.pinFault then s.takeAnswer.busFailure e else s.takeAnswer.performHead e rest

end Sys2Proof.Machine
end

