-- ==== Sys2Proof/Machine/Traffic.lean ====
section
/-! DEFINITION. The traffic-light FSM and its commands (43_traffic_light.md). An entry or exit is a chain of actions
within one step (R220); a failed lamp write cuts the chain (R229). -/

namespace Sys2Proof.Machine

/-- notify(p, d): a phase-event if TL_CB_EN = 1 (43_traffic_light.md R233, R228). -/
def State.notify (s : State) (p : Phase) (d : Byte) : State :=
  if s.tlCbEn = 1#1 then { s with phaseTrace := s.phaseTrace ++ [{ code := phaseBits p, duration := d }] } else s

/-- enter(GREEN) (43_traffic_light.md R217): announced with the full green duration. -/
def enterGreen (s : State) : State :=
  lampWrite .green 1#1 (fun s => { s.notify .green s.tlG with
    tlPhase := .green, tlCnt := s.params.consts.ticksOf (s.params.consts.steadyGreen s.tlG) }) s

/-- leave(RED) (43_traffic_light.md R217). -/
def leaveRed (s : State) : State := lampWrite .red 0#1 enterGreen s

/-- What follows the lamp write of enter(RED) (43_traffic_light.md R216). -/
def redEntered (s : State) : State :=
  let s := { s.notify .red s.tlR with tlPhase := .red, tlCnt := s.params.consts.ticksOf s.tlR }
  if s.tlCnt = 0#9 then leaveRed s else s

/-- enter(RED) (43_traffic_light.md R216). -/
def enterRed (s : State) : State := lampWrite .red 1#1 redEntered s

/-- leave(AMBER) (43_traffic_light.md R219). -/
def leaveAmber (s : State) : State := lampWrite .amber 0#1 enterRed s

/-- What follows the lamp write of enter(AMBER) (43_traffic_light.md R219). -/
def amberEntered (s : State) : State :=
  let s := { s.notify .amber s.tlA with tlPhase := .amber, tlCnt := s.params.consts.ticksOf s.tlA }
  if s.tlCnt = 0#9 then leaveAmber s else s

/-- enter(AMBER) (43_traffic_light.md R219). -/
def enterAmber (s : State) : State := lampWrite .amber 1#1 amberEntered s

/-- leave(GREEN), which is enter(BLINK) with no lamp write (43_traffic_light.md R218). -/
def leaveGreen (s : State) : State := { s with tlPhase := .greenBlink, tlBlink := 0#3, tlCnt := s.params.consts.slotTicks }

/-- The level green takes at the end of blink slot `k`: on after an even slot, off after an odd one
(43_traffic_light.md R223). -/
def blinkLevel (k : BitVec 3) : Bit := if k.extractLsb' 0 1 = 0#1 then 1#1 else 0#1

/-- What follows the lamp write of blink_slot_end() (43_traffic_light.md R223). -/
def nextBlinkSlot (s : State) : State :=
  if s.tlBlink = s.params.consts.lastBlinkSlot then enterAmber s
  else { s with tlBlink := s.tlBlink + 1#3, tlCnt := s.params.consts.slotTicks }

/-- blink_slot_end() (43_traffic_light.md R223). -/
def blinkSlotEnd (s : State) : State := lampWrite .green (blinkLevel s.tlBlink) nextBlinkSlot s

/-- The end of the current wait (43_traffic_light.md R222). -/
def waitEnd (s : State) : State :=
  match s.tlPhase with
  | .red => leaveRed s
  | .green => leaveGreen s
  | .greenBlink => blinkSlotEnd s
  | .amber => leaveAmber s

/-- One TICK of a running cycle (43_traffic_light.md R222). -/
def runningTick (s : State) : State :=
  let s := { s with tlCnt := s.tlCnt - 1#9 }
  if s.tlCnt = 0#9 then waitEnd s else s

/-- The values a running cycle of the MBPE has at every TICK (43_traffic_light.md R217, R222, 10_state.md R51): the spec gives a
TICK no meaning outside them (log entry 8). With other numbers the bounds are TL_GREEN_MIN and the last blink slot
(log entry 21). -/
def State.tickInRange (s : State) : Bool :=
  decide (1 ≤ s.tlCnt.toNat) && decide (s.params.consts.tlGreenMin.toNat ≤ s.tlG.toNat)
    && (decide (s.tlPhase ≠ .greenBlink) || decide (s.tlBlink.toNat ≤ s.params.consts.lastBlinkSlot.toNat))

/-- The TICK step (43_traffic_light.md R222): ignored while TL_RUN = 0. -/
def tick (s : State) : Result :=
  if s.tlRun = 0#1 then .next s
  else if s.tickInRange then .next (runningTick s)
  else .fault .trafficOutOfRange

/-! ### Commands -/

/-- TL_CONFIG after acceptance (43_traffic_light.md R212). -/
def tlConfigEffect (sel : BitVec 2) (value : Byte) (s : State) : State :=
  if sel = 0#2 then ({ s with tlCfgRed := s.params.consts.seconds value }).succeed
  else if sel = 1#2 then ({ s with tlCfgAmber := s.params.consts.seconds value }).succeed
  else if sel = 2#2 then ({ s with tlCfgGreen := s.params.consts.seconds value }).succeed
  else s.raise .invalidArgument

/-- TL_CONFIG (43_traffic_light.md R212): immediate class. -/
def execTlConfig (sel : BitVec 2) (value : Byte) (s : State) : Result := immediateCommand (tlConfigEffect sel value) s

/-- The durations are latched and a cycle is running, not yet in a phase of its own (43_traffic_light.md R214). -/
def State.latchDurations (s : State) : State :=
  { s with tlR := s.tlCfgRed, tlA := s.tlCfgAmber, tlG := s.tlCfgGreen, tlBlink := 0#3, tlRun := 1#1 }

/-- TL_START after acceptance (43_traffic_light.md R214, R215): refused when TL_CFG_GREEN is too small, else a running
cycle is cancelled, writing no lamp (R225), and a new one enters Red. -/
def tlStartEffect (s : State) : State :=
  if s.tlCfgGreen.toNat < s.params.consts.tlGreenMin.toNat then s.raise .invalidConfiguration
  else enterRed ({ s.succeed with tlRun := 0#1 }).latchDurations

/-- TL_START (43_traffic_light.md R214): immediate class. -/
def execTlStart (s : State) : Result := immediateCommand tlStartEffect s

/-- TL_STOP (43_traffic_light.md R224): immediate class; no lamp is written (R225). -/
def execTlStop (s : State) : Result := immediateCommand (fun s => ({ s with tlRun := 0#1 }).succeed) s

/-- TL_CB_ENABLE (43_traffic_light.md R213): immediate class. -/
def execTlCbEnable (en : Bit) (s : State) : Result := immediateCommand (fun s => ({ s with tlCbEn := en }).succeed) s

end Sys2Proof.Machine
end

