-- ==== Sys2Proof/Machine/Dispatch.lean ====
section
/-! DEFINITION. What the block does when the host issues a command: one arm per constructor. -/

namespace Sys2Proof.Machine

/-- A command issued by the host: accepted and performed, or, of the serial class while BUSY, held. -/
def exec (i : Instr) (s : State) : Host.Outcome State Fault Refusal :=
  match i with
  | .encodeChar char point => Sys2Proof.Machine.execEncode char point s
  | .busStart => Sys2Proof.Machine.execBusStart s
  | .busStop => Sys2Proof.Machine.execBusStop s
  | .busWrite byte => Sys2Proof.Machine.execBusWrite byte s
  | .segLoad idx byte => Sys2Proof.Machine.execSegLoad idx byte s
  | .segLoadChar idx char point => Sys2Proof.Machine.execSegLoadChar idx char point s
  | .setSegments addr n => Sys2Proof.Machine.execSetSegments addr n s
  | .setBrightness level => Sys2Proof.Machine.execSetBrightness level s
  | .tlConfig sel value => Sys2Proof.Machine.execTlConfig sel value s
  | .tlStart => Sys2Proof.Machine.execTlStart s
  | .tlStop => Sys2Proof.Machine.execTlStop s
  | .tlCbEnable en => Sys2Proof.Machine.execTlCbEnable en s

end Sys2Proof.Machine
end

