-- ==== Sys2Proof/Machine/HostOps.lean ====
section
/-! DEFINITION. The host pseudo-operations (42_host_display_ops.md R180 to R192), expanded into programs of the host
agent. They are host software, not hardware (00_scope.md R7). A text is a list of 8-bit character codes. -/

namespace Sys2Proof.Machine

/-- The act of issuing a command. -/
def issueCmd (i : Instr) : HostAct := .issue (encode i)

/-- encode_string: the patterns of a text in order, or the first invalid character and its position, counted from 0
(40_seg_encoder.md R129). `j` is the position of the list's head. -/
def encodeStringFrom (p : Params) (point : Bit) (j : Nat) (text : List Byte) : Except (Byte × Nat) (List Byte) :=
  match text with
  | [] => .ok []
  | c :: rest =>
    match encodePattern p c point with
    | none => .error (c, j)
    | some b =>
      match encodeStringFrom p point (j + 1) rest with
      | .ok bs => .ok (b :: bs)
      | .error e => .error e

/-- encode_string of a whole text (40_seg_encoder.md R129). -/
def encodeString (p : Params) (point : Bit) (text : List Byte) : Except (Byte × Nat) (List Byte) :=
  encodeStringFrom p point 0 text

/-- WAIT_IDLE (42_host_display_ops.md R181). -/
def waitIdleProg : List HostAct := [.waitIdle]

/-- The loop of TEXT_SESSION from entry `j` on (42_host_display_ops.md R182): each load is followed by a check that
abandons every act up to and with the `after` acts that end the operation, with the error STATUS shows. -/
def loadChars (point : Bit) (after : Nat) (j : Nat) (text : List Byte) : List HostAct :=
  match text with
  | [] => []
  | c :: rest =>
    issueCmd (.segLoadChar (BitVec.ofNat 3 j) c point) :: .abandonOnError (2 * rest.length + after) none
      :: loadChars point after (j + 1) rest

/-- TEXT_SESSION(text, point, addr), for `addr + L <= 6` (42_host_display_ops.md R182). -/
def textSession (text : List Byte) (point : Bit) (addr : BitVec 4) : List HostAct :=
  loadChars point 1 0 text ++ [issueCmd (.setSegments addr (BitVec.ofNat 4 text.length))]

/-- The loop of SESSION from entry `j` on (42_host_display_ops.md R182). -/
def loadPatterns (after : Nat) (j : Nat) (patterns : List Byte) : List HostAct :=
  match patterns with
  | [] => []
  | b :: rest =>
    issueCmd (.segLoad (BitVec.ofNat 3 j) b) :: .abandonOnError (2 * rest.length + after) none
      :: loadPatterns after (j + 1) rest

/-- SESSION P, addr (42_host_display_ops.md R182). -/
def patternSession (patterns : List Byte) (addr : BitVec 4) : List HostAct :=
  loadPatterns 1 0 patterns ++ [issueCmd (.setSegments addr (BitVec.ofNat 4 patterns.length))]

/-- SHOW text [, colon]: refused for more than 4 characters (42_host_display_ops.md R183, 93 U3). -/
def showProg (text : List Byte) (colon : Bit) : Option (List HostAct) :=
  if text.length ≤ 4 then some (textSession text colon 0) else none

/-- The character code of a decimal digit. -/
def digitCode (n : Nat) : Byte := BitVec.ofNat 8 (0x30 + n % 10)

/-- The decimal digits of `n`, without leading zeros, "0" for 0; `fuel` bounds the number of digits after the first. -/
def decimalDigits (fuel n : Nat) : List Byte :=
  match fuel with
  | 0 => [digitCode n]
  | fuel + 1 => if n < 10 then [digitCode n] else decimalDigits fuel (n / 10) ++ [digitCode n]

/-- decimal(m) of an integer of at most 4 digits: "-" first if it is negative (42_host_display_ops.md R184). -/
def decimalText (m : Int) : List Byte :=
  if m < 0 then 0x2D :: decimalDigits 3 m.natAbs else decimalDigits 3 m.natAbs

/-- Right-justified in `width` columns, padded with spaces (42_host_display_ops.md R184, R185). -/
def rightJustify (width : Nat) (text : List Byte) : List Byte := List.replicate (width - text.length) 0x20 ++ text

/-- NUMBER's text: n clamped to -999..9999 and right-justified in 4 columns (42_host_display_ops.md R184). -/
def numberText (n : Int) : List Byte := rightJustify 4 (decimalText (min (max n (-999)) 9999))

/-- NUMBER n (42_host_display_ops.md R184). -/
def numberProg (n : Int) : List HostAct := textSession (numberText n) 0 0

/-- TEMPERATURE's text: "lo", "hi", or two columns then the star and 'C' (42_host_display_ops.md R185, 90 C4). -/
def temperatureText (n : Int) : List Byte :=
  if n < -9 then [0x6C, 0x6F] else if 99 < n then [0x68, 0x69] else rightJustify 2 (decimalText n) ++ [0x2A, 0x43]

/-- TEMPERATURE n (42_host_display_ops.md R185). -/
def temperatureProg (n : Int) : List HostAct := textSession (temperatureText n) 0 0

/-- SCROLL's slots: four blanks, the text, four blanks (42_host_display_ops.md R186, 90 C7). -/
def scrollSlots (text : List Byte) : List (Option Byte) :=
  List.replicate 4 none ++ text.map some ++ List.replicate 4 none

/-- One slot of a SCROLL frame into entry `k`: the raw blank, or the character (42_host_display_ops.md R186). -/
def scrollLoad (k : Nat) (slot : Option Byte) : HostAct :=
  match slot with
  | none => issueCmd (.segLoad (BitVec.ofNat 3 k) 0)
  | some c => issueCmd (.segLoadChar (BitVec.ofNat 3 k) c 0)

/-- Frame `i` of SCROLL (42_host_display_ops.md R186). -/
def scrollFrame (text : List Byte) (i : Nat) : List HostAct :=
  ((((scrollSlots text).drop i).take 4).mapIdx scrollLoad) ++ [issueCmd (.setSegments 0 4)]

/-- The frames of SCROLL with a wait between them: L + 5 frames, L + 4 waits (42_host_display_ops.md R186). -/
def scrollFrames (text : List Byte) : List HostAct :=
  List.intercalate [.pause] ((List.range (text.length + 5)).map (scrollFrame text))

/-- The validation pass of SCROLL from character `j` on: an ENCODE per character, aborting the whole operation on an error
with the character ERR_CHAR and the position `j`, since ENCODE sets ERR_POS to 0 (42_host_display_ops.md R186). -/
def scrollCheck (after : Nat) (j : Nat) (text : List Byte) : List HostAct :=
  match text with
  | [] => []
  | c :: rest =>
    issueCmd (.encodeChar c 0) :: .abandonOnError (2 * rest.length + after) (some j) :: scrollCheck after (j + 1) rest

/-- SCROLL text (42_host_display_ops.md R186). -/
def scrollProg (text : List Byte) : List HostAct := scrollCheck (scrollFrames text).length 0 text ++ scrollFrames text

/-- TL_START_WITH red, amber, green, background (42_host_display_ops.md R187): without `background` the host waits until
TL_RUN = 0, which a cycle that nothing stops never reaches (93 U20). -/
def tlStartWithProg (red : Byte := 10) (amber : Byte := 3) (green : Byte := 10) (background : Bool := true) : List HostAct :=
  [issueCmd (.tlConfig 0 red), issueCmd (.tlConfig 1 amber), issueCmd (.tlConfig 2 green), issueCmd .tlStart]
    ++ if background then [] else [.waitStopped]

/-- CLEAR (42_host_display_ops.md R190). -/
def clearProg : List HostAct := [.clear]

/-- COUNTDOWN seconds, background (42_host_display_ops.md R188): the running display task is cancelled first; without
`background` the caller joins the task. For seconds <= 0 the task shows NUMBER 0 alone. -/
def countdownProg (seconds : Int) (background : Bool) : List HostAct :=
  clearProg ++ [.spawn (.countdown seconds.toNat)] ++ if background then [] else [.join]

/-- CLOCK (42_host_display_ops.md R189, R191): the running display task is cancelled first. -/
def clockProg : List HostAct := clearProg ++ [.spawn .clock]

/-! ### The display tasks -/

/-- The task of COUNTDOWN from `n` down: NUMBER i and a cancellable wait for each i from n to 1, then NUMBER 0
(42_host_display_ops.md R188). A task with nothing left clears its own handle. A NUMBER that finds STATUS.ERR_CODE not 0 (a pin
failure or another thread's command between its load and its check) aborts and is reported, and the task goes on to its next
wait: whether the task ends there the spec does not say (DESIGN CHOICE, log entry 22). -/
def countdownTask (n : Nat) : List HostAct :=
  match n with
  | 0 => numberProg 0
  | m + 1 => numberProg (m + 1) ++ [.pause] ++ countdownTask m

/-- What a display task starts with. CLOCK's is the wait for the next second and the act that shows the time and repeats. -/
def DisplayTask.acts (t : DisplayTask) : List HostAct :=
  match t with
  | .countdown n => countdownTask n
  | .clock => [.pause, .clockShow]

/-- The rest of a round of CLOCK once the local time is read: the time with the colon on, half a second, the time with the
colon off, then the next round (42_host_display_ops.md R189; CLOCK_FMT is open, log entry 13). An invalid character of
CLOCK_FMT aborts that SHOW and is reported, and the task goes on to its next wait: whether the task ends there the spec
does not say (DESIGN CHOICE, log entry 22). -/
def clockRound (hour minute : Nat) : List HostAct :=
  let f := Config.clockFmt hour minute
  let text := [f.1, f.2.1, f.2.2.1, f.2.2.2]
  textSession text 1 0 ++ [.pause] ++ textSession text 0 0 ++ [.pause, .clockShow]

end Sys2Proof.Machine
end

