-- ==== Sys2Proof/Machine/HostPort.lean ====
section
/-! DEFINITION. The host agent's steps on the command and STATUS ports (00_scope.md R8, 10_state.md R32 to R34), for its
caller and its display task (42_host_display_ops.md R188 to R192), and the turn of each agent. -/

namespace Sys2Proof.Machine

/-- The block holds the word `w`: it is of the serial class and the engine is busy (10_state.md R32, 41_serial_bus.md R142). -/
def State.holds (s : State) (w : Word) : Bool := isSerialWord w && s.busy

/-- An illegal word: held like any other of its class, else accepted, raising IllegalCommand (30_encoding.md R94, R95). -/
def illegalWord (w : Word) (s : State) : Result :=
  if s.holds w then .next (s.hold w) else .next (s.accept.raise .illegalCommand)

/-- The word `w` is presented on the command port (10_state.md R32, 30_encoding.md R96). -/
def presentWord (w : Word) (s : State) : Result :=
  match decode w with
  | .ok i => exec i s
  | .error _ => illegalWord w s

/-! ### The host's threads -/

/-- The thread has the acts `acts` still to do. -/
def State.setActs (s : State) (h : HostThread) (acts : List HostAct) : State :=
  match h with
  | .caller => { s with hostProg := acts }
  | .task => { s with hostTask := s.hostTask.map fun t => { t with acts := acts } }

/-- The acts the thread still has to do, none for a display task that is not there. -/
def State.acts (s : State) (h : HostThread) : List HostAct :=
  match h with
  | .caller => s.hostProg
  | .task => (s.hostTask.map fun t => t.acts).getD []

/-- The cancellation of the running display task is requested (42_host_display_ops.md R190); with no task, a no-op. -/
def State.cancelTask (s : State) : State := { s with hostTask := s.hostTask.map fun t => { t with cancelled := true } }

/-- The running display task's handle is held: it is there and not cancelled (42_host_display_ops.md R190, R191). -/
def State.taskHandle (s : State) : Bool := (s.hostTask.map fun t => !t.cancelled).getD false

/-- A host operation ends with InvalidCharacter: the character and, unless the operation counts its own position, the
position are those of STATUS (42_host_display_ops.md R182, R186). -/
def State.reportHostError (s : State) (position : Option Nat) : State :=
  { s with hostErrors := s.hostErrors ++ [{ char := s.errChar, position := position.getD s.errPos.toNat }] }

/-- The end of a wait: a display task whose cancellation is requested exits there, and only there
(42_host_display_ops.md R192). -/
def State.endPause (s : State) (h : HostThread) (rest : List HostAct) : State :=
  if h = .task ∧ s.hostTask.any (fun t => t.cancelled) then { s with hostTask := none } else s.setActs h rest

/-- An act of a host thread, taken off its program when it is done; `rest` follows it (log entry 11). A STATUS read has no
side effect (10_state.md R34): a plain one only gives the host the word, a wait that is not over leaves the state as it is. -/
def hostAct (h : HostThread) (a : HostAct) (rest : List HostAct) (s : State) : Result :=
  match a with
  | .issue w => presentWord w { s.setActs h rest with port := some w, portThread := h }
  | .readStatus => .next { s.setActs h rest with hostReads := s.hostReads ++ [s.status] }
  | .waitIdle => .next (if s.busy then s else s.setActs h rest)
  | .waitStopped => .next (if s.tlRun = 1#1 then s else s.setActs h rest)
  | .abandonOnError n position =>
    .next (if s.errCode = .ok then s.setActs h rest else (s.reportHostError position).setActs h (rest.drop n))
  | .pause => .next (s.endPause h rest)
  | .clear => .next (s.cancelTask.setActs h rest)
  | .spawn t =>
    .next (if s.hostTask.isSome then s else { s with hostTask := some { acts := t.acts, cancelled := false } }.setActs h rest)
  | .join => .next (if s.hostTask.isSome then s else s.setActs h rest)
  | .clockShow =>
    .next (s.setActs h (clockRound (Config.localTime s.stepNo).1 (Config.localTime s.stepNo).2 ++ rest))

/-- A thread with nothing left to do: the caller stays, a display task ends, its handle cleared
(42_host_display_ops.md R188). -/
def State.endThread (s : State) (h : HostThread) : State :=
  match h with
  | .caller => s
  | .task => { s with hostTask := none }

/-- The thread takes the next act of its program, if it has one. -/
def threadStep (h : HostThread) (s : State) : Result :=
  match s.acts h with
  | [] => .next (s.endThread h)
  | a :: rest => hostAct h a rest s

/-- The act cannot be taken while a word is held: no further word is issued until then (10_state.md R32), and the check of a
command's result waits for the acceptance of that command, the thread's own (42_host_display_ops.md R182). Every other act can:
a read of STATUS may be made while a command is held (10_state.md R34; log entry 11). -/
def HostAct.waitsForPort (a : HostAct) (own : Bool) : Bool :=
  match a with
  | .issue _ => true
  | .abandonOnError _ _ => own
  | .readStatus => false
  | .waitIdle => false
  | .waitStopped => false
  | .pause => false
  | .clear => false
  | .spawn _ => false
  | .join => false
  | .clockShow => false

/-- The thread's next act has to wait for the acceptance of the word on the port. -/
def State.actWaits (s : State) (h : HostThread) : Bool :=
  (s.acts h).head?.any fun a => a.waitsForPort (decide (s.portThread = h))

/-- The step of a host thread (10_state.md R32, R34). A word on the port that the block need not hold is accepted: in the first
host step at which Q is empty (41_serial_bus.md R142). While one is held it stays presented, and the thread takes its next act
beside it, unless that act waits. With no word on the port the thread takes its next act. -/
def hostStep (h : HostThread) (s : State) : Result :=
  match s.port with
  | some w => if s.holds w then (if s.actWaits h then .next s else threadStep h s) else presentWord w s
  | none => threadStep h s

/-- The step of the agent whose turn it is (00_scope.md R8). -/
def takeTurn (t : Turn) (s : State) : Result :=
  match t with
  | .host => hostStep .caller s
  | .task => hostStep .task s
  | .serial => .next (busStep s)
  | .tick => tick s
  | .reset => .next (resetStep s)

end Sys2Proof.Machine
end

