-- ==== Sys2Proof/Machine/Step.lean ====
section
/-! DEFINITION. One step of the machine: the agent whose turn is next moves (00_scope.md R8; log entry 1). -/

namespace Sys2Proof.Machine

/-- The next turn is taken off the schedule and its agent moves; with nothing scheduled no agent moves and all state is
kept (60_exceptions.md R269; log entry 1). -/
def step (s : State) : Host.Outcome State Fault Refusal :=
  match s.turns with
  | [] => .next s
  | t :: rest => takeTurn t { s with turns := rest, stepNo := s.stepNo + 1 }

/-- `s` with the word as the next the host's caller issues, no other on the port, and the caller's turn next, so that the next
step presents exactly it (10_state.md R31, R32: the host supplies the words; log entry 2). -/
def State.withFetchWord (s : State) (nbits w : Nat) : State :=
  { s with port := none, hostProg := .issue (tableWord nbits w) :: s.hostProg, turns := .host :: s.turns }

end Sys2Proof.Machine
end

