-- ==== Sys2Proof/Machine/Assembler.lean ====
section
/-! DEFINITION. The assembler text of commands (30_encoding.md R107), after its lines have been split into a mnemonic and
operands. It belongs to the host's tools; the block's own step uses none of this. -/

namespace Sys2Proof.Machine

/-- An operand as written: a number (decimal, hex or a character code), or a name in the position of SEL. -/
inductive AsmOperand where
  | num (n : Nat)
  | red
  | amber
  | green
  deriving DecidableEq, Repr

/-- A number that fits the field's width; the assembler refuses any other (30_encoding.md R107). -/
def fitField (width n : Nat) : Option (BitVec width) := if n < 2 ^ width then some (BitVec.ofNat width n) else none

/-- The assembler (30_encoding.md R107): none where it refuses. A value that fits its field but is out of the legal range
is not refused, and an absent optional operand assembles as 0. -/
def assemble (mnemonic : String) (operands : List AsmOperand) : Option Instr :=
  match mnemonic, operands with
  | "ENCODE", [.num c] => (fitField 8 c).map (.encodeChar · 0)
  | "ENCODE", [.num c, .num p] => do some (.encodeChar (← fitField 8 c) (← fitField 1 p))
  | "BUS_START", [] => some .busStart
  | "BUS_STOP", [] => some .busStop
  | "BUS_WRITE", [.num b] => (fitField 8 b).map .busWrite
  | "SEG_LOAD", [.num i, .num b] => do some (.segLoad (← fitField 3 i) (← fitField 8 b))
  | "SEG_LOAD_CHAR", [.num i, .num c] => do some (.segLoadChar (← fitField 3 i) (← fitField 8 c) 0)
  | "SEG_LOAD_CHAR", [.num i, .num c, .num p] =>
    do some (.segLoadChar (← fitField 3 i) (← fitField 8 c) (← fitField 1 p))
  | "SET_SEGMENTS", [.num a, .num n] => do some (.setSegments (← fitField 4 a) (← fitField 4 n))
  | "SET_BRIGHTNESS", [.num l] => (fitField 3 l).map .setBrightness
  | "TL_CONFIG", [.red, .num v] => (fitField 8 v).map (.tlConfig 0)
  | "TL_CONFIG", [.amber, .num v] => (fitField 8 v).map (.tlConfig 1)
  | "TL_CONFIG", [.green, .num v] => (fitField 8 v).map (.tlConfig 2)
  | "TL_CONFIG", [.num s, .num v] => do some (.tlConfig (← fitField 2 s) (← fitField 8 v))
  | "TL_START", [] => some .tlStart
  | "TL_STOP", [] => some .tlStop
  | "TL_CB_ENABLE", [.num e] => (fitField 1 e).map .tlCbEnable
  | _, _ => none

end Sys2Proof.Machine
end

