-- ==== Sys2Proof/Safety.lean ====
section
/-! DEFINITION. The terms claims are stated in: what is observed of a run (00_scope.md R9), the invariant of a run, what a
receiver samples on the wire, and the frame grammar (30_encoding.md R104). -/

namespace Sys2Proof.Machine

/-- The observation of a state: the traces, the lamp levels and STATUS, and nothing else (00_scope.md R9). -/
structure Observation where
  wireTrace : List WireRecord
  lampR : Bit
  lampA : Bit
  lampG : Bit
  phaseTrace : List PhaseEvent
  status : Word
  deriving DecidableEq, Repr

/-- What is observed of a state (00_scope.md R9). -/
def State.observe (s : State) : Observation :=
  { wireTrace := s.wireTrace, lampR := s.lampR, lampA := s.lampA, lampG := s.lampG, phaseTrace := s.phaseTrace,
    status := s.status }

/-- The premise claims take: no model fault is recorded (60_exceptions.md R262). -/
abbrev State.NoFaultRecorded (s : State) : Prop := s.faults = []

/-- The observation of a run that ends in this state: none after a recorded fault, since a state after one is never a final
state of the observation (60_exceptions.md R262). -/
def State.finalObservation (s : State) : Option Observation := if s.NoFaultRecorded then some s.observe else none

/-- The environment fails none of the pin writes to come (60_exceptions.md R257). -/
def State.pinsAnswerOk (s : State) : Bool := s.pinFaults.all fun b => !b

/-- The environment's answer to the `k`-th pin write to come, from 0: true for a failure (10_state.md R53). -/
def State.answer (s : State) (k : Nat) : Bool := s.pinFaults.getD k false

/-- The lamp that the running phase keeps lit is lit: red in Red, amber in Amber, green in Green and in the blink slots
0, 1, 3 and 5, and dark in slots 2 and 4 (43_traffic_light.md R216, R217, R219, R223). -/
def State.phaseLampRight (s : State) : Bool :=
  match s.tlPhase with
  | .red => s.lampR == 1#1
  | .amber => s.lampA == 1#1
  | .green => s.lampG == 1#1
  | .greenBlink => s.lampG == (if s.tlBlink = 2#3 ∨ s.tlBlink = 4#3 then 0#1 else 1#1)

/-- TICKs left are at most those of the phase's wait (43_traffic_light.md R216 to R219, R223). -/
def State.countWithinPhase (s : State) : Bool :=
  match s.tlPhase with
  | .red => decide (s.tlCnt.toNat ≤ 2 * s.tlR.toNat)
  | .green => decide (s.tlCnt.toNat ≤ 2 * (s.tlG.toNat - 3))
  | .greenBlink => decide (s.tlCnt.toNat ≤ 1)
  | .amber => decide (s.tlCnt.toNat ≤ 2 * s.tlA.toNat)

/-- What holds of the traffic FSM in every run: the blink slot is 0 to 5 (10_state.md R51), and while the cycle runs its
count is at least 1 and within its phase, green is at least 5 seconds, and the phase's lamp is as R216 to R223 say. -/
def State.trafficInv (s : State) : Bool :=
  decide (s.tlBlink.toNat ≤ 5)
    && (decide (s.tlRun = 0#1)
      || (decide (1 ≤ s.tlCnt.toNat) && decide (5 ≤ s.tlG.toNat) && s.countWithinPhase && s.phaseLampRight))

/-- The bound on Q (10_state.md R43) for an acknowledgement of five events. -/
def State.queueInv (s : State) : Bool := decide (s.params.ackSeq.length = 5) && decide (s.q.length ≤ 285)

/-- The invariant of a run of the MBPE, with its own numbers. -/
def State.inv (s : State) : Bool := decide s.IsMbpe && paramsWf s.params && s.trafficInv && s.queueInv

/-- The invariant of a run, as a proposition. -/
abbrev State.Inv (s : State) : Prop := s.inv = true

/-- At most one lamp is lit, and it is the running phase's (43_traffic_light.md R226). -/
def State.onlyPhaseLamp (s : State) : Bool :=
  match s.tlPhase with
  | .red => s.lampA == 0#1 && s.lampG == 0#1
  | .amber => s.lampR == 0#1 && s.lampG == 0#1
  | .green => s.lampR == 0#1 && s.lampA == 0#1
  | .greenBlink => s.lampR == 0#1 && s.lampA == 0#1

/-- A segment of the engine's output: a start condition, a stop condition or a byte frame (30_encoding.md R104). -/
inductive Segment where
  | start
  | stop
  | byte (b : Byte)
  deriving DecidableEq, Repr

/-- The pin events of a segment (41_serial_bus.md R143 to R146). -/
def segmentEvents (p : Params) (g : Segment) : List PinEvent :=
  match g with
  | .start => startSeq
  | .stop => stopSeq
  | .byte b => byteSeq p b

/-- The session of the frame grammar (30_encoding.md R104): three frames. -/
def sessionSegments (cmd addr : Byte) (patterns : List Byte) (ctrl : Byte) : List Segment :=
  [.start, .byte cmd, .stop] ++ ([.start, .byte addr] ++ patterns.map .byte ++ [.stop]) ++ [.start, .byte ctrl, .stop]

/-- What a receiver samples: the DIO level at each rise of CLK while the engine drives DIO, in order. -/
def sampledBits (p : Pins) (es : List PinEvent) : List Bit :=
  match es with
  | [] => []
  | e :: rest =>
    let p' := performEvent p e
    if p.clk = 0#1 ∧ p'.clk = 1#1 ∧ p'.dir = .output then p'.dio :: sampledBits p' rest else sampledBits p' rest

/-- The number of rises of CLK. -/
def clkRises (p : Pins) (es : List PinEvent) : Nat :=
  match es with
  | [] => 0
  | e :: rest =>
    (if p.clk = 0#1 ∧ (performEvent p e).clk = 1#1 then 1 else 0) + clkRises (performEvent p e) rest

/-- The event changes DIO or turns its direction while CLK is high (41_serial_bus.md R157). -/
def highClockChange (p : Pins) (e : PinEvent) : Bool :=
  p.clk == 1#1 && (decide ((performEvent p e).dio ≠ p.dio) || decide ((performEvent p e).dir ≠ p.dir))

/-- The events of a trace that change DIO or its direction while CLK is high, each with the latches before it. -/
def highClockChanges (p : Pins) (es : List PinEvent) : List (Pins × PinEvent) :=
  match es with
  | [] => []
  | e :: rest =>
    if highClockChange p e then (p, e) :: highClockChanges (performEvent p e) rest
    else highClockChanges (performEvent p e) rest

/-- The start and stop conditions of a list of segments, as they must show in `highClockChanges`: DIO falls in a start,
rises in a stop (41_serial_bus.md R143, R144). -/
def conditionsOf (gs : List Segment) : List PinEvent :=
  match gs with
  | [] => []
  | .start :: rest => .dio 0#1 :: conditionsOf rest
  | .stop :: rest => .dio 1#1 :: conditionsOf rest
  | .byte _ :: rest => conditionsOf rest

/-- The wire output the engine is committed to: what it has put on the trace, then what is still in Q
(20_memory.md R78). -/
def State.committed (s : State) : List WireRecord := s.wireTrace ++ s.q.map .performed

/-- What an accepted command appends to Q (41_serial_bus.md R149 to R155); the other commands append nothing. -/
def busEvents (s : State) (i : Instr) : List PinEvent :=
  match i with
  | .busStart => startSeq
  | .busStop => stopSeq
  | .busWrite byte => byteSeq s.params byte
  | .setSegments addr n =>
    if sessionInRange s.params.consts addr n then sessionSeq s.params addr (s.patterns n) s.bright else []
  | .encodeChar _ _ => []
  | .segLoad _ _ => []
  | .segLoadChar _ _ _ => []
  | .setBrightness _ => []
  | .tlConfig _ _ => []
  | .tlStart => []
  | .tlStop => []
  | .tlCbEnable _ => []

/-- The turn of a host thread. -/
def HostThread.turn (h : HostThread) : Turn :=
  match h with
  | .caller => .host
  | .task => .task

/-- The act is a read of STATUS (10_state.md R34). -/
def HostAct.readsStatus (a : HostAct) : Bool :=
  match a with
  | .readStatus => true
  | .waitIdle => true
  | .waitStopped => true
  | .abandonOnError _ _ => true
  | .issue _ => false
  | .pause => false
  | .clear => false
  | .spawn _ => false
  | .join => false
  | .clockShow => false

/-- The act is the check of a command's result (42_host_display_ops.md R182). -/
def HostAct.checksResult (a : HostAct) : Bool :=
  match a with
  | .abandonOnError _ _ => true
  | .issue _ => false
  | .readStatus => false
  | .waitIdle => false
  | .waitStopped => false
  | .pause => false
  | .clear => false
  | .spawn _ => false
  | .join => false
  | .clockShow => false

/-- The word a program issues next, if its next act is to issue one. -/
def issuedWord (acts : List HostAct) : Option Word :=
  match acts with
  | .issue w :: _ => some w
  | _ => none

/-- The word on the command port in a step with the turn `t`, if a host thread moves: the held one, else the one the
thread's program issues next (10_state.md R32). -/
def presentedWord (t : Turn) (s : State) : Option Word :=
  match t with
  | .host => s.port.or (issuedWord (s.acts .caller))
  | .task => s.port.or (issuedWord (s.acts .task))
  | .serial => none
  | .tick => none
  | .reset => none

/-- The host's command is accepted in the step it is presented: it is of the immediate class, or Q is empty
(41_serial_bus.md R142). -/
def acceptedNow (i : Instr) (s : State) : Bool := !(isSerialInstr i && s.busy)

/-- Every word with the OP `op` and one of the reserved-zero bits `reserved` set is IllegalCommand when it is accepted, and
has no other effect (30_encoding.md R95, 60_exceptions.md R252, R256). -/
def ReservedBitsIllegal (op : BitVec 4) (reserved : Word) : Prop :=
  ∀ (w : Word) (s : State), opOf w = op → w &&& reserved ≠ 0#32 → (isSerialWord w && s.busy) = false →
    presentWord w s = .next { s with port := none, errCode := .illegalCommand }

/-- `n` bus steps. -/
def busSteps (n : Nat) (s : State) : State :=
  match n with
  | 0 => s
  | n + 1 => busSteps n (busStep s)

/-- BUSY is 1 for the next `n` bus steps and 0 after them, if no pin write has failed or fails (10_state.md R35,
60_exceptions.md R262). -/
def BusyForSteps (n : Nat) (s : State) : Prop :=
  s.NoFaultRecorded → s.pinsAnswerOk = true → ∀ k, (busSteps k s).busy = decide (k < n)

/-- A pin failure at any of the bus steps to come leaves ERR_CODE 5 and empties Q (41_serial_bus.md R159). -/
def PinFailureCutsShort (s : State) : Prop :=
  ∀ k, (busSteps k s).q ≠ [] → (busSteps k s).pinFault = true →
    (busSteps (k + 1) s).errCode = .pinFailure ∧ (busSteps (k + 1) s).q = []

/-- The phase-event a phase entry emits: one if TL_CB_EN = 1, else none (43_traffic_light.md R233). -/
def noticeIf (en : Bit) (code : BitVec 2) (duration : Byte) : List PhaseEvent :=
  if en = 1#1 then [{ code := code, duration := duration }] else []

/-- The eight data bits of a byte, least significant first (20_memory.md R73). -/
def bitsLsbFirst (b : Byte) : List Bit := (List.range 8).map fun k => BitVec.ofBool (b.getLsbD k)

/-- The reserved-zero bits of each OP (30_encoding.md R91, last column). -/
def reservedZeroBits (op : BitVec 4) : Word :=
  match op.toNat with
  | 1 => 0x0FFFFE00
  | 2 => 0x0FFFFFFF
  | 3 => 0x0FFFFFFF
  | 4 => 0x0FFFFF00
  | 5 => 0x0FF8FF00
  | 6 => 0x0FF8FE00
  | 7 => 0x0FF0FFF0
  | 8 => 0x0FFFFFF8
  | 9 => 0x0FFCFF00
  | 10 => 0x0FFFFFFF
  | 11 => 0x0FFFFFFF
  | 12 => 0x0FFFFFFE
  | _ => 0

end Sys2Proof.Machine
end

