-- ==== Sys2Proof/Certificates/Slice0/Obligations.lean ====
section
/-! DEFINITION. The statements about the model, from the numbered rules of spec/. -/

open Sys2Proof Sys2Proof.Machine

/-! ### Encoding -/

/-- Decoding an encoded command gives it back, for every command and every operand value (30_encoding.md R91, R92). -/
def Obligations.DecodeOfEncode : Prop := ∀ i : Instr, decode (encode i) = .ok i

/-- A word that decodes to a command is that command's encoding: no bit of it is ignored (30_encoding.md R95). -/
def Obligations.EncodeOfDecode : Prop := ∀ (w : Word) (i : Instr), decode w = .ok i → encode i = w

/-- 30_encoding.md R97 over the rows of R93 with the fields of R92: the decoder is total; a word is the command of the row it
matches, whatever its field values, and IllegalCommand if it matches none; at most one row matches. -/
def Obligations.DecodeFollowsOpcodeMap : Prop :=
  (opcodeRows.map fun r => (r.pattern, r.mask, r.build)) =
    [(0x10000000#32, 0xFFFFFE00#32, fun w => .encodeChar (w.extractLsb' 0 8) (w.extractLsb' 8 1)),
     (0x20000000#32, 0xFFFFFFFF#32, fun _ => .busStart), (0x30000000#32, 0xFFFFFFFF#32, fun _ => .busStop),
     (0x40000000#32, 0xFFFFFF00#32, fun w => .busWrite (w.extractLsb' 0 8)),
     (0x50000000#32, 0xFFF8FF00#32, fun w => .segLoad (w.extractLsb' 16 3) (w.extractLsb' 0 8)),
     (0x60000000#32, 0xFFF8FE00#32,
       fun w => .segLoadChar (w.extractLsb' 16 3) (w.extractLsb' 0 8) (w.extractLsb' 8 1)),
     (0x70000000#32, 0xFFF0FFF0#32, fun w => .setSegments (w.extractLsb' 16 4) (w.extractLsb' 0 4)),
     (0x80000000#32, 0xFFFFFFF8#32, fun w => .setBrightness (w.extractLsb' 0 3)),
     (0x90000000#32, 0xFFFCFF00#32, fun w => .tlConfig (w.extractLsb' 16 2) (w.extractLsb' 0 8)),
     (0xA0000000#32, 0xFFFFFFFF#32, fun _ => .tlStart), (0xB0000000#32, 0xFFFFFFFF#32, fun _ => .tlStop),
     (0xC0000000#32, 0xFFFFFFFE#32, fun w => .tlCbEnable (w.extractLsb' 0 1))] ∧
  ∀ w : Word,
    (∀ r ∈ opcodeRows, w &&& r.mask = r.pattern → decode w = .ok (r.build w)) ∧
    ((∀ r ∈ opcodeRows, w &&& r.mask ≠ r.pattern) → ∃ e, decode w = .error e) ∧
    (∀ r ∈ opcodeRows, ∀ r' ∈ opcodeRows, w &&& r.mask = r.pattern → w &&& r'.mask = r'.pattern →
      r.pattern = r'.pattern)

/-- A word of each family written out from its encoding in 30_encoding.md R91 decodes to its command (the examples of
R127, R151, R152, R153, R155, R154, R212 and R213). -/
def Obligations.SpecWordsDecode : Prop :=
  decode 0b0001_0000000000000000000_0_01100001#32 = .ok (.encodeChar 0x61 0) ∧
  decode 0b0010_0000000000000000000000000000#32 = .ok .busStart ∧
  decode 0b0100_00000000000000000000_01000000#32 = .ok (.busWrite 0x40) ∧
  decode 0b0101_000000000_010_00000000_01100011#32 = .ok (.segLoad 2 0x63) ∧
  decode 0b0110_000000000_001_0000000_1_00110010#32 = .ok (.segLoadChar 1 0x32 1) ∧
  decode 0b0111_00000000_0010_000000000000_0010#32 = .ok (.setSegments 2 2) ∧
  decode 0b1000_0000000000000000000000000_010#32 = .ok (.setBrightness 2) ∧
  decode 0b1001_0000000000_10_00000000_00000101#32 = .ok (.tlConfig 2 5) ∧
  decode 0b1100_000000000000000000000000000_1#32 = .ok (.tlCbEnable 1)

/-- 30_encoding.md R94: a word with a reserved OP is accepted at once, BUSY or not, raises IllegalCommand and changes no other
state. -/
def Obligations.ReservedOpIsIllegalAtOnce : Prop :=
  ∀ (w : Word) (s : State), (opOf w = 0x0#4 ∨ opOf w = 0xD#4 ∨ opOf w = 0xE#4 ∨ opOf w = 0xF#4) →
    presentWord w s = .next { s with port := none, errCode := .illegalCommand }

/-- 30_encoding.md R95, with the table of R91: an OP from 0x1 to 0xC with a reserved-zero bit set raises IllegalCommand and
changes no other state; a serial-class OP is held while BUSY before the check; without such a bit set the word decodes. -/
def Obligations.ReservedBitsAreIllegal : Prop :=
  ∀ (w : Word) (s : State), 1 ≤ (opOf w).toNat → (opOf w).toNat ≤ 12 →
    (w &&& reservedZeroBits (opOf w) ≠ 0#32 →
      presentWord w s
        = if (decide (2 ≤ (opOf w).toNat) && decide ((opOf w).toNat ≤ 8)) = true ∧ s.q ≠ [] then .next { s with port := some w }
          else .next { s with port := none, errCode := .illegalCommand }) ∧
    (w &&& reservedZeroBits (opOf w) = 0#32 → ∃ i, decode w = .ok i)

/-! ### The step -/

/-- A word on the command port runs. In a host step of either thread a word that is there and need not be held (41_serial_bus.md
R142), a word the thread's program issues, and one placed by withFetchWord are presented, whether they decode or not
(10_state.md R32), and a word that decodes runs as exec of its command. A word that is held stays presented: presenting it again
changes nothing, and the step ends with it on the port, no command performed and nothing of the block changed, whatever act the
thread takes beside it; the issue of a further word is not taken and stays the thread's next act. Beside that the step takes the turn off the schedule and counts. That withFetchWord stands for the host
presenting a word, in place of one that is held, is the model's choice (log entry 2), and so are the host's programs (log
entry 11). -/
def Obligations.StepRunsDecodedCommand : Prop :=
  (∀ (s : State) (w : Word),
    (∀ (h : HostThread) rest, s.turns = h.turn :: rest → s.port = some w → s.holds w = false →
      step s = presentWord w { s with turns := rest, stepNo := s.stepNo + 1 }) ∧
    (s.port = some w → s.holds w = true → presentWord w s = .next s) ∧
    (∀ (h : HostThread) rest, s.turns = h.turn :: rest → s.port = some w → s.holds w = true →
      ∃ t, step s = .next t ∧ t = { s with
        turns := rest, stepNo := s.stepNo + 1, hostProg := t.hostProg, hostTask := t.hostTask,
        hostErrors := t.hostErrors, hostReads := t.hostReads }) ∧
    (∀ (h : HostThread) rest w' acts, s.turns = h.turn :: rest → s.port = some w → s.holds w = true →
      s.acts h = .issue w' :: acts → step s = .next { s with turns := rest, stepNo := s.stepNo + 1 }) ∧
    (∀ rest acts, s.turns = .host :: rest → s.port = none → s.hostProg = .issue w :: acts →
      step s = presentWord w { s with
        turns := rest, stepNo := s.stepNo + 1, hostProg := acts, port := some w, portThread := .caller }) ∧
    (∀ rest acts cancelled, s.turns = .task :: rest → s.port = none →
      s.hostTask = some { acts := .issue w :: acts, cancelled := cancelled } →
      step s = presentWord w { s with
        turns := rest, stepNo := s.stepNo + 1, hostTask := some { acts := acts, cancelled := cancelled },
        port := some w, portThread := .task }) ∧
    (∀ nbits n, tableWord nbits n = w →
      step (s.withFetchWord nbits n) = presentWord w { s with
        port := some w, portThread := .caller, stepNo := s.stepNo + 1 })) ∧
  (∀ (w : Word) (i : Instr) (s : State), decode w = .ok i → presentWord w s = exec i s)

/-- Every command answers a next state in every state: none faults, none is refused. -/
def Obligations.EveryCommandAnswersNextState : Prop := ∀ (i : Instr) (s : State), ∃ t, exec i s = .next t

/-- The one stop of the model: a TICK of a running cycle outside the values the spec says occur (the model's choice, log
entry 8). -/
def Obligations.StepFaultsOnlyAtOutOfRangeTick : Prop :=
  ∀ s : State, (∀ r, step s ≠ .refused r) ∧
    (∀ f, step s = .fault f → f = .trafficOutOfRange ∧ (∃ rest, s.turns = .tick :: rest) ∧ s.tlRun = 1#1 ∧
      (s.tlCnt = 0#9 ∨ s.tlG.toNat < s.params.consts.tlGreenMin.toNat ∨
        (s.tlPhase = .greenBlink ∧ s.params.consts.lastBlinkSlot.toNat < s.tlBlink.toNat))) ∧
  mbpeConstants.tlGreenMin = 5#8 ∧ mbpeConstants.lastBlinkSlot = 5#3

/-! ### STATUS, reset, whole-machine rules -/

/-- The layout of the STATUS word, every field at its bits, with the codes of TL_PHASE and ERR_CODE, is that of 10_state.md R34. How
the host reads it is the model's choice (log entry 11): a read by a thread of the host, in any state, changes nothing but the
host's own programs, error report and record of reads, and a plain read puts the word in that record. Every read is taken in the
thread's step with no word on the port and while a command is held, with one exception: the check of the result of the held
command itself waits for that command's acceptance: the thread's step leaves it the next act, and changes nothing else. -/
def Obligations.StatusLayout : Prop :=
  (∀ s : State,
    s.status.extractLsb' 0 1 = BitVec.ofBool (decide (s.q ≠ [])) ∧
    s.status.extractLsb' 1 3 = errCodeBits s.errCode ∧
    s.status.extractLsb' 4 8 = s.errChar ∧
    s.status.extractLsb' 12 3 = s.errPos ∧
    s.status.extractLsb' 15 1 = s.tlRun ∧
    s.status.extractLsb' 16 2 = phaseBits s.tlPhase ∧
    s.status.extractLsb' 18 8 = s.result ∧
    s.status.extractLsb' 26 1 = s.lampR ∧
    s.status.extractLsb' 27 1 = s.lampA ∧
    s.status.extractLsb' 28 1 = s.lampG ∧
    s.status.extractLsb' 29 3 = s.bright) ∧
  (phaseBits .red = 0#2 ∧ phaseBits .green = 1#2 ∧ phaseBits .greenBlink = 2#2 ∧ phaseBits .amber = 3#2) ∧
  (errCodeBits .ok = 0#3 ∧ errCodeBits .invalidCharacter = 1#3 ∧ errCodeBits .invalidConfiguration = 2#3 ∧
    errCodeBits .invalidArgument = 3#3 ∧ errCodeBits .illegalCommand = 4#3 ∧ errCodeBits .pinFailure = 5#3) ∧
  (∀ (h : HostThread) (a : HostAct) (acts : List HostAct) (s : State), a.readsStatus = true →
    (∃ t, hostAct h a acts s = .next t ∧ t.status = s.status ∧ t = { s with
      hostProg := t.hostProg, hostTask := t.hostTask, hostErrors := t.hostErrors, hostReads := t.hostReads }) ∧
    (∀ rest, s.turns = h.turn :: rest → s.acts h = a :: acts →
      (s.port = none ∨ ∃ w, s.port = some w ∧ s.holds w = true ∧ (a.checksResult = true → s.portThread ≠ h)) →
      step s = hostAct h a acts { s with turns := rest, stepNo := s.stepNo + 1 })) ∧
  (∀ (h : HostThread) (n : Nat) (position : Option Nat) (acts : List HostAct) (rest : List Turn) (w : Word) (s : State),
    s.turns = h.turn :: rest → s.acts h = .abandonOnError n position :: acts →
    s.port = some w → s.holds w = true → s.portThread = h →
    step s = .next { s with turns := rest, stepNo := s.stepNo + 1 }) ∧
  (∀ (h : HostThread) (acts : List HostAct) (s : State),
    hostAct h .readStatus acts s = .next { s.setActs h acts with hostReads := s.hostReads ++ [s.status] })

/-- 10_state.md R55 and 70_reset_and_hazards.md R280: what the reset step leaves in every register, from any
state of a block with the MBPE's own numbers. -/
def Obligations.ResetStepLeavesResetValues : Prop :=
  (∀ (s : State) (rest : List Turn), s.IsMbpe → s.turns = .reset :: rest → ∃ t, step s = .next t ∧
    t.clkOut = 1#1 ∧ t.dioOut = 1#1 ∧ t.dioDir = .output ∧ t.q = [] ∧ t.busy = false ∧ t.bright = 7#3 ∧
    t.segBuf.toList = [0#8, 0#8, 0#8, 0#8, 0#8, 0#8] ∧ t.result = 0#8 ∧
    t.errCode = .ok ∧ t.errChar = 0#8 ∧ t.errPos = 0#3 ∧
    t.tlCfgRed = 10#8 ∧ t.tlCfgAmber = 3#8 ∧ t.tlCfgGreen = 10#8 ∧ t.tlR = 10#8 ∧ t.tlA = 3#8 ∧ t.tlG = 10#8 ∧
    t.tlCbEn = 0#1 ∧ t.tlRun = 0#1 ∧ t.tlPhase = .red ∧ t.tlCnt = 0#9 ∧ t.tlBlink = 0#3 ∧
    t.lampR = 0#1 ∧ t.lampA = 0#1 ∧ t.lampG = 0#1 ∧ t.port = none ∧ t.params = s.params ∧
    t.wireTrace = s.wireTrace ∧ t.phaseTrace = s.phaseTrace ∧ t.faults = s.faults) ∧
  State.reset.IsMbpe ∧ State.reset.wireTrace = [] ∧ State.reset.phaseTrace = [] ∧ State.reset.faults = []

/-- 10_state.md R44: SEG_LUT is fixed, no command, reset or other step changes it (nor the other parameters); it starts as the
default table. -/
def Obligations.RomNeverChanges : Prop :=
  (∀ s t : State, step s = .next t → t.params.segLut = s.params.segLut ∧ t.params = s.params) ∧
  State.reset.params.segLut = defaultSegLut

/-- 10_state.md R54: no step clears the fault record, reset included, and it is empty at launch; the two traces also only
grow. So after a recorded fault no later state is a final state of the observation (60_exceptions.md R262). -/
def Obligations.FaultRecordAndTracesOnlyGrow : Prop :=
  (∀ s t : State, step s = .next t →
    s.faults <+: t.faults ∧ s.wireTrace <+: t.wireTrace ∧ s.phaseTrace <+: t.phaseTrace ∧
    (s.faults ≠ [] → t.finalObservation = none)) ∧
  State.reset.faults = []

/-- 10_state.md R38: only a successful ENCODE writes RESULT; a failed one leaves it unchanged; no other step but reset writes it,
whichever agent moves. -/
def Obligations.OnlySuccessfulEncodeWritesResult : Prop :=
  (∀ (i : Instr) (s t : State), exec i s = .next t →
    t.result = s.result ∨ ∃ char point b, i = .encodeChar char point ∧ encodePattern s.params char point = some b ∧
      t.result = b ∧ t.errCode = .ok) ∧
  (∀ (s t : State) (turn : Turn) (rest : List Turn), s.turns = turn :: rest → turn ≠ .reset → step s = .next t →
    t.result = s.result ∨ ∃ w char point b, presentedWord turn s = some w ∧ decode w = .ok (.encodeChar char point) ∧
      encodePattern s.params char point = some b ∧ t.result = b ∧ t.errCode = .ok) ∧
  (∀ (w : Word) (e : DecodeError) (s t : State), decode w = .error e → presentWord w s = .next t →
    t.result = s.result) ∧
  (∀ s t : State, s.turns = [] → step s = .next t → t.result = s.result) ∧
  State.reset.result = 0#8

/-- 10_state.md R41 and 41_serial_bus.md R140: the pin latches and the wire trace are left alone by every step but a bus step
and reset. -/
def Obligations.OnlyBusStepsWritePins : Prop :=
  ∀ (s t : State) (turn : Turn) (rest : List Turn), s.turns = turn :: rest → turn ≠ .serial → turn ≠ .reset →
    step s = .next t →
    t.clkOut = s.clkOut ∧ t.dioOut = s.dioOut ∧ t.dioDir = s.dioDir ∧ t.wireTrace = s.wireTrace

/-- 20_memory.md R83: the serial engine's commands and bus steps leave the traffic FSM and RESULT alone; ENCODE, the TL
commands and TICK leave the serial engine alone. -/
def Obligations.SerialAndTrafficAreDisjoint : Prop :=
  (∀ (i : Instr) (s t : State), isSerialInstr i = true → exec i s = .next t →
    t.tlCfgRed = s.tlCfgRed ∧ t.tlCfgAmber = s.tlCfgAmber ∧ t.tlCfgGreen = s.tlCfgGreen ∧ t.tlCbEn = s.tlCbEn ∧
    t.tlRun = s.tlRun ∧ t.tlPhase = s.tlPhase ∧ t.tlR = s.tlR ∧ t.tlA = s.tlA ∧ t.tlG = s.tlG ∧ t.tlCnt = s.tlCnt ∧
    t.tlBlink = s.tlBlink ∧ t.lampR = s.lampR ∧ t.lampA = s.lampA ∧ t.lampG = s.lampG ∧
    t.phaseTrace = s.phaseTrace ∧ t.result = s.result ∧ t.faults = s.faults ∧ t.pinFaults = s.pinFaults) ∧
  (∀ s : State,
    busStep s = { s with
      clkOut := (busStep s).clkOut, dioOut := (busStep s).dioOut, dioDir := (busStep s).dioDir,
      q := (busStep s).q, errCode := (busStep s).errCode, wireTrace := (busStep s).wireTrace,
      faults := (busStep s).faults, pinFaults := (busStep s).pinFaults, draws := (busStep s).draws }) ∧
  (∀ (i : Instr) (s t : State), isSerialInstr i = false → exec i s = .next t →
    t.clkOut = s.clkOut ∧ t.dioOut = s.dioOut ∧ t.dioDir = s.dioDir ∧ t.q = s.q ∧ t.bright = s.bright ∧
    t.segBuf = s.segBuf ∧ t.wireTrace = s.wireTrace) ∧
  (∀ s t : State, tick s = .next t →
    t = { s with
      tlRun := t.tlRun, tlPhase := t.tlPhase, tlCnt := t.tlCnt, tlBlink := t.tlBlink, lampR := t.lampR,
      lampA := t.lampA, lampG := t.lampG, errCode := t.errCode, phaseTrace := t.phaseTrace, faults := t.faults,
      pinFaults := t.pinFaults, draws := t.draws })

/-! ### Command results and frames -/

/-- 40_seg_encoder.md R127: ENCODE in any state, BUSY or not, with its frame: RESULT and ERR_CODE on success; ERR_CODE, ERR_CHAR
and ERR_POS = 0 on InvalidCharacter; IllegalCommand for a reserved bit. -/
def Obligations.EncodeWritesResultOrReportsCharacter : Prop :=
  (∀ (char : Byte) (point : Bit) (s : State),
    (∀ b, encodePattern s.params char point = some b →
      exec (.encodeChar char point) s = .next { s with port := none, result := b, errCode := .ok }) ∧
    (encodePattern s.params char point = none →
      exec (.encodeChar char point) s
        = .next { s with port := none, errCode := .invalidCharacter, errChar := char, errPos := 0#3 })) ∧
  ReservedBitsIllegal 0x1#4 0x0FFFFE00#32

/-- 41_serial_bus.md R149 with R143: BUS_START on an idle engine, its four events, its frame, and BUSY for four bus steps. -/
def Obligations.BusStartQueuesStartSequence : Prop :=
  (∀ s : State, s.q = [] → ∃ t, exec .busStart s = .next t ∧
    t = { s with port := none, errCode := .ok, q := [.dio 1#1, .clk 1#1, .dio 0#1, .clk 0#1] } ∧
    BusyForSteps 4 t ∧ PinFailureCutsShort t) ∧
  ReservedBitsIllegal 0x2#4 0x0FFFFFFF#32

/-- 41_serial_bus.md R150 with R144: BUS_STOP on an idle engine, its four events, its frame, and BUSY for four bus steps. -/
def Obligations.BusStopQueuesStopSequence : Prop :=
  (∀ s : State, s.q = [] → ∃ t, exec .busStop s = .next t ∧
    t = { s with port := none, errCode := .ok, q := [.clk 0#1, .dio 0#1, .clk 1#1, .dio 1#1] } ∧
    BusyForSteps 4 t ∧ PinFailureCutsShort t) ∧
  ReservedBitsIllegal 0x3#4 0x0FFFFFFF#32

/-- 41_serial_bus.md R151 with R145: BUS_WRITE on an idle engine: eight bits, least significant first, three events each, then
ACK_SEQ; its frame; and with the default ACK_SEQ BUSY for 29 bus steps. -/
def Obligations.BusWriteQueuesByteSequence : Prop :=
  (∀ (byte : Byte) (s : State), s.q = [] → ∃ t, exec (.busWrite byte) s = .next t ∧
    t = { s with
      port := none, errCode := .ok,
      q := (bitsLsbFirst byte).flatMap (fun b => [PinEvent.clk 0#1, .dio b, .clk 1#1]) ++ s.params.ackSeq } ∧
    (s.params.ackSeq = defaultAckSeq → BusyForSteps 29 t) ∧ PinFailureCutsShort t) ∧
  ReservedBitsIllegal 0x4#4 0x0FFFFF00#32

/-- 41_serial_bus.md R152: SEG_LOAD on an idle engine: one entry written, the others and every other register kept; IDX 6 and 7
raise InvalidArgument. -/
def Obligations.SegLoadWritesOneEntry : Prop :=
  (∀ (idx : BitVec 3) (byte : Byte) (s : State), s.IsMbpe → s.q = [] →
    (∀ h : idx.toNat < 6,
      exec (.segLoad idx byte) s = .next { s with port := none, errCode := .ok, segBuf := s.segBuf.set idx.toNat byte h }) ∧
    (6 ≤ idx.toNat → exec (.segLoad idx byte) s = .next { s with port := none, errCode := .invalidArgument })) ∧
  ReservedBitsIllegal 0x5#4 0x0FF8FF00#32

/-- 41_serial_bus.md R153: SEG_LOAD_CHAR on an idle engine: the encoded character into one entry, or InvalidArgument before
InvalidCharacter with position IDX; on any error SEG_BUF is unchanged, and RESULT always. -/
def Obligations.SegLoadCharWritesEncodedEntry : Prop :=
  (∀ (idx : BitVec 3) (char : Byte) (point : Bit) (s : State), s.IsMbpe → s.q = [] →
    (∀ (h : idx.toNat < 6) (b : Byte), encodePattern s.params char point = some b →
      exec (.segLoadChar idx char point) s
        = .next { s with port := none, errCode := .ok, segBuf := s.segBuf.set idx.toNat b h }) ∧
    (idx.toNat < 6 → encodePattern s.params char point = none →
      exec (.segLoadChar idx char point) s
        = .next { s with port := none, errCode := .invalidCharacter, errChar := char, errPos := idx }) ∧
    (6 ≤ idx.toNat →
      exec (.segLoadChar idx char point) s = .next { s with port := none, errCode := .invalidArgument })) ∧
  ReservedBitsIllegal 0x6#4 0x0FF8FE00#32

/-- 41_serial_bus.md R154: SET_BRIGHTNESS on an idle engine, every level legal; STATUS[31:29] shows the new level, which the next
SET_SEGMENTS sends; no pin event. -/
def Obligations.SetBrightnessWritesLevel : Prop :=
  (∀ (level : BitVec 3) (s : State), s.q = [] → ∃ t, exec (.setBrightness level) s = .next t ∧
    t = { s with port := none, errCode := .ok, bright := level } ∧ t.status.extractLsb' 29 3 = level ∧
    ∀ addr n : BitVec 4, s.IsMbpe → addr.toNat ≤ 5 → addr.toNat + n.toNat ≤ 6 → ∃ u, exec (.setSegments addr n) t = .next u ∧
      u.q = sessionSeq s.params addr (s.segBuf.toList.take n.toNat) level) ∧
  ReservedBitsIllegal 0x8#4 0x0FFFFFF8#32

/-- 41_serial_bus.md R155: SET_SEGMENTS on an idle engine: the session of R148 over entries 0 to N-1 whatever ADDR is, with
BRIGHT as it is at acceptance, BUSY for 111 + 29 N bus steps; InvalidArgument when ADDR > 5 or ADDR + N > 6. -/
def Obligations.SetSegmentsQueuesSession : Prop :=
  (∀ (addr n : BitVec 4) (s : State), s.IsMbpe → s.q = [] →
    (addr.toNat ≤ 5 → addr.toNat + n.toNat ≤ 6 → ∃ t, exec (.setSegments addr n) s = .next t ∧
      t = { s with
        port := none, errCode := .ok,
        q := sessionSeq s.params addr (s.segBuf.toList.take n.toNat) s.bright } ∧
      (s.params.ackSeq = defaultAckSeq → BusyForSteps (111 + 29 * n.toNat) t) ∧ PinFailureCutsShort t) ∧
    (5 < addr.toNat ∨ 6 < addr.toNat + n.toNat →
      exec (.setSegments addr n) s = .next { s with port := none, errCode := .invalidArgument })) ∧
  ReservedBitsIllegal 0x7#4 0x0FF0FFF0#32

/-- 43_traffic_light.md R212: TL_CONFIG in any state: one duration register, every value accepted, a running cycle not affected;
SEL 3 raises InvalidArgument. -/
def Obligations.TlConfigWritesOneDuration : Prop :=
  (∀ (value : Byte) (s : State), s.IsMbpe →
    exec (.tlConfig 0#2 value) s = .next { s with port := none, errCode := .ok, tlCfgRed := value } ∧
    exec (.tlConfig 1#2 value) s = .next { s with port := none, errCode := .ok, tlCfgAmber := value } ∧
    exec (.tlConfig 2#2 value) s = .next { s with port := none, errCode := .ok, tlCfgGreen := value }) ∧
  (∀ (value : Byte) (s : State),
    exec (.tlConfig 3#2 value) s = .next { s with port := none, errCode := .invalidArgument }) ∧
  ReservedBitsIllegal 0x9#4 0x0FFCFF00#32

/-- 43_traffic_light.md R213: TL_CB_ENABLE in any state; no phase-event of its own; the next phase entry notifies accordingly. -/
def Obligations.TlCbEnableWritesEnable : Prop :=
  (∀ (en : Bit) (s : State), ∃ t, exec (.tlCbEnable en) s = .next t ∧
    t = { s with port := none, errCode := .ok, tlCbEn := en } ∧
    ∀ (p : Phase) (d : Byte), t.notify p d = { t with phaseTrace := s.phaseTrace ++ noticeIf en (phaseBits p) d }) ∧
  ReservedBitsIllegal 0xC#4 0x0FFFFFFE#32

/-- 43_traffic_light.md R224: TL_STOP in any state clears TL_RUN in its own step, keeps the phase and every lamp, is idempotent,
and no TICK after it moves the FSM. -/
def Obligations.TlStopCancelsAtOnce : Prop :=
  (∀ s : State, ∃ t, exec .tlStop s = .next t ∧ t = { s with port := none, errCode := .ok, tlRun := 0#1 } ∧
    tick t = .next t ∧ exec .tlStop t = .next t) ∧
  ReservedBitsIllegal 0xB#4 0x0FFFFFFF#32

/-- 43_traffic_light.md R214 to R217: TL_START in any state: refused with InvalidConfiguration and nothing else changed iff
TL_CFG_GREEN <= 4; else the durations are latched and Red entered anew, or, with a red of 0 seconds, Red entered and left and
Green entered in the one step. Which of the step's lamp writes the environment fails first (R229) decides between the last
five clauses: it leaves that lamp at some level, stops the cycle, reports code 5 and cuts the rest of the step off. -/
def Obligations.TlStartValidatesAndEntersRed : Prop :=
  (∀ s : State, s.IsMbpe → s.tlCfgGreen.toNat ≤ 4 →
    exec .tlStart s = .next { s with port := none, errCode := .invalidConfiguration }) ∧
  (∀ s : State, s.IsMbpe → 4 < s.tlCfgGreen.toNat →
    (s.tlCfgRed ≠ 0#8 → s.answer 0 = false → exec .tlStart s = .next { s with
      port := none, errCode := .ok, tlR := s.tlCfgRed, tlA := s.tlCfgAmber, tlG := s.tlCfgGreen, tlBlink := 0#3,
      tlRun := 1#1, lampR := 1#1, tlPhase := .red, tlCnt := BitVec.ofNat 9 (2 * s.tlCfgRed.toNat),
      phaseTrace := s.phaseTrace ++ noticeIf s.tlCbEn 0#2 s.tlCfgRed, pinFaults := s.pinFaults.drop 1 }) ∧
    (s.tlCfgRed = 0#8 → s.answer 0 = false → s.answer 1 = false → s.answer 2 = false →
      exec .tlStart s = .next { s with
        port := none, errCode := .ok, tlR := 0#8, tlA := s.tlCfgAmber, tlG := s.tlCfgGreen, tlBlink := 0#3,
        tlRun := 1#1, lampR := 0#1, lampG := 1#1, tlPhase := .green,
        tlCnt := BitVec.ofNat 9 (2 * (s.tlCfgGreen.toNat - 3)),
        phaseTrace := s.phaseTrace ++ noticeIf s.tlCbEn 0#2 0#8 ++ noticeIf s.tlCbEn 1#2 s.tlCfgGreen,
        pinFaults := s.pinFaults.drop 3 }) ∧
    (s.answer 0 = true → ∃ level : Bit, exec .tlStart s = .next { s with
      port := none, errCode := .pinFailure, tlR := s.tlCfgRed, tlA := s.tlCfgAmber, tlG := s.tlCfgGreen,
      tlBlink := 0#3, tlRun := 0#1, lampR := level, faults := s.faults ++ [.lamp .red 1#1],
      pinFaults := s.pinFaults.drop 1, draws := s.draws + 1 }) ∧
    (s.tlCfgRed = 0#8 → s.answer 0 = false → s.answer 1 = true → ∃ level : Bit, exec .tlStart s = .next { s with
      port := none, errCode := .pinFailure, tlR := 0#8, tlA := s.tlCfgAmber, tlG := s.tlCfgGreen, tlBlink := 0#3,
      tlRun := 0#1, lampR := level, tlPhase := .red, tlCnt := 0#9, faults := s.faults ++ [.lamp .red 0#1],
      phaseTrace := s.phaseTrace ++ noticeIf s.tlCbEn 0#2 0#8, pinFaults := s.pinFaults.drop 2, draws := s.draws + 1 }) ∧
    (s.tlCfgRed = 0#8 → s.answer 0 = false → s.answer 1 = false → s.answer 2 = true →
      ∃ level : Bit, exec .tlStart s = .next { s with
        port := none, errCode := .pinFailure, tlR := 0#8, tlA := s.tlCfgAmber, tlG := s.tlCfgGreen, tlBlink := 0#3,
        tlRun := 0#1, lampR := 0#1, lampG := level, tlPhase := .red, tlCnt := 0#9,
        faults := s.faults ++ [.lamp .green 1#1], phaseTrace := s.phaseTrace ++ noticeIf s.tlCbEn 0#2 0#8,
        pinFaults := s.pinFaults.drop 3, draws := s.draws + 1 })) ∧
  ReservedBitsIllegal 0xA#4 0x0FFFFFFF#32

/-- 41_serial_bus.md R142: a serial-class word presented while Q is not empty is held: it stays presented, nothing else changes
and STATUS is unchanged by it; any other word, and any word while Q is empty, is accepted in that step; and as many bus
steps as Q has events empty Q, failures or not. -/
def Obligations.SerialCommandsHeldWhileBusy : Prop :=
  (∀ (w : Word) (s : State), isSerialWord w = true → s.q ≠ [] →
    presentWord w s = .next { s with port := some w } ∧ ({ s with port := some w } : State).status = s.status) ∧
  (∀ (w : Word) (s : State), (isSerialWord w = false ∨ s.q = []) → ∃ t, presentWord w s = .next t ∧ t.port = none) ∧
  (∀ s : State, (busSteps s.q.length s).busy = false)

/-- 60_exceptions.md R252: a failing command is precise: an accepted command or illegal word that ends with the code of a command
error has changed ERR_CODE, and for InvalidCharacter ERR_CHAR and ERR_POS, and nothing else but the port it was taken
from. -/
def Obligations.FailingCommandIsPrecise : Prop :=
  (∀ (i : Instr) (s t : State), acceptedNow i s = true → exec i s = .next t →
    t.errCode ≠ .ok → t.errCode ≠ .pinFailure →
    t = { s with port := none, errCode := t.errCode, errChar := t.errChar, errPos := t.errPos } ∧
    (t.errCode ≠ .invalidCharacter → t.errChar = s.errChar ∧ t.errPos = s.errPos) ∧
    (t.errCode = .invalidCharacter → (∃ point, i = .encodeChar t.errChar point ∧ t.errPos = 0#3) ∨
      ∃ point, i = .segLoadChar t.errPos t.errChar point)) ∧
  (∀ (w : Word) (e : DecodeError) (s : State), decode w = .error e → (isSerialWord w && s.busy) = false →
    presentWord w s = .next { s with port := none, errCode := .illegalCommand }) ∧
  (errCodeBits .ok = 0#3 ∧ errCodeBits .invalidCharacter = 1#3 ∧ errCodeBits .invalidConfiguration = 2#3 ∧
    errCodeBits .invalidArgument = 3#3 ∧ errCodeBits .illegalCommand = 4#3 ∧ errCodeBits .pinFailure = 5#3)

/-- 60_exceptions.md R258: which error an accepted word reports: IllegalCommand, then InvalidArgument (R255: operands that are not
well formed), then InvalidCharacter or InvalidConfiguration; else 0, or 5 for a TL_START whose lamp write failed. -/
def Obligations.ErrorPriority : Prop :=
  (∀ (w : Word) (e : DecodeError) (s t : State), (isSerialWord w && s.busy) = false → decode w = .error e →
    presentWord w s = .next t → t.errCode = .illegalCommand) ∧
  (∀ (w : Word) (i : Instr) (s t : State), s.IsMbpe → acceptedNow i s = true → decode w = .ok i →
    presentWord w s = .next t →
    (¬ i.WellFormed → t.errCode = .invalidArgument) ∧
    (i.WellFormed → ∀ char point, (i = .encodeChar char point ∨ ∃ idx, i = .segLoadChar idx char point) →
      charIndex char = none → t.errCode = .invalidCharacter) ∧
    (i = .tlStart → s.tlCfgGreen.toNat ≤ 4 → t.errCode = .invalidConfiguration) ∧
    (i.WellFormed →
      (∀ char point, (i = .encodeChar char point ∨ ∃ idx, i = .segLoadChar idx char point) → charIndex char ≠ none) →
      (i = .tlStart → 4 < s.tlCfgGreen.toNat) →
      t.errCode = .ok ∨ (i = .tlStart ∧ t.errCode = .pinFailure)))

/-- 40_seg_encoder.md R128: InvalidCharacter comes before any bus activity: only ENCODE and SEG_LOAD_CHAR raise it, and no command
that encodes puts an event in Q or on the wire. -/
def Obligations.InvalidCharacterBeforeBusActivity : Prop :=
  ∀ (i : Instr) (s t : State), acceptedNow i s = true → exec i s = .next t →
    (t.errCode = .invalidCharacter →
      (∃ char point, i = .encodeChar char point) ∨ ∃ idx char point, i = .segLoadChar idx char point) ∧
    ((∃ char point, i = .encodeChar char point) ∨ (∃ idx char point, i = .segLoadChar idx char point) →
      t.q = s.q ∧ t.wireTrace = s.wireTrace)

/-- The commands 20_memory.md R76 calls idempotent: issued again in the state their acceptance left, errors included, they leave
that same state. -/
def Obligations.RepeatedCommandsAreIdempotent : Prop :=
  ∀ (i : Instr) (s t : State), acceptedNow i s = true → exec i s = .next t →
    ((∃ c p, i = .encodeChar c p) ∨ (∃ k b, i = .segLoad k b) ∨ (∃ k c p, i = .segLoadChar k c p) ∨
      (∃ l, i = .setBrightness l) ∨ (∃ k v, i = .tlConfig k v) ∨ (∃ en, i = .tlCbEnable en) ∨ i = .tlStop) →
    exec i t = .next t

/-! ### The character encoder -/

/-- 40_seg_encoder.md R122: the normalised index of every character code. -/
def Obligations.CharacterIndexTable : Prop :=
  ∀ c : Byte, (charIndex c).map Fin.val =
    if 0x30 ≤ c.toNat ∧ c.toNat ≤ 0x39 then some (c.toNat - 0x30)
    else if 0x61 ≤ c.toNat ∧ c.toNat ≤ 0x7A then some (c.toNat - 0x61 + 10)
    else if 0x41 ≤ c.toNat ∧ c.toNat ≤ 0x5A then some (c.toNat - 0x41 + 10)
    else if c.toNat = 0x20 then some 36
    else if c.toNat = 0x2D then some 37
    else if c.toNat = 0x2A then some 38
    else none

/-- 40_seg_encoder.md R123: a capital and its small letter have the same index, and so the same pattern whatever the table is. -/
def Obligations.LettersFoldCase : Prop :=
  ∀ c : Byte, 0x41 ≤ c.toNat → c.toNat ≤ 0x5A →
    charIndex c = charIndex (c + 0x20#8) ∧
    ∀ (p : Params) (point : Bit), encodePattern p c point = encodePattern p (c + 0x20#8) point

/-- 40_seg_encoder.md R126: the encode function on every code and point bit: INVALID exactly where the index is, else the table's
entry with the point ORed into bit 7. -/
def Obligations.EncodeFunction : Prop :=
  ∀ (p : Params) (c : Byte) (point : Bit),
    (charIndex c = none → encodePattern p c point = none) ∧
    (∀ i, charIndex c = some i →
      encodePattern p c point = some (if point = 1#1 then p.segLut.get i ||| 0x80#8 else p.segLut.get i))

/-! ### The serial engine -/

/-- 41_serial_bus.md R141: a bus step with no pin failure performs exactly the head event of Q, appends it to the wire trace and
removes it; with Q empty the engine's turn changes nothing; a failed answer is a pin failure instead (R159). -/
def Obligations.BusStepPerformsHead : Prop :=
  (∀ (s : State) (rest : List Turn), s.turns = .serial :: rest → s.q = [] →
    step s = .next { s with turns := rest, stepNo := s.stepNo + 1 }) ∧
  (∀ (s : State) (rest : List Turn) (e : PinEvent) (es : List PinEvent), s.turns = .serial :: rest → s.q = e :: es →
    s.pinFault = false → ∃ t, step s = .next t ∧
    t = { s with
      turns := rest, stepNo := s.stepNo + 1, pinFaults := s.pinFaults.tail, q := es,
      wireTrace := s.wireTrace ++ [.performed e], clkOut := t.clkOut, dioOut := t.dioOut, dioDir := t.dioDir } ∧
    (∀ b, e = .clk b → t.clkOut = b ∧ t.dioOut = s.dioOut ∧ t.dioDir = s.dioDir) ∧
    (∀ b, e = .dio b → t.clkOut = s.clkOut ∧ t.dioOut = b ∧ t.dioDir = s.dioDir) ∧
    (∀ d, e = .dir d → t.clkOut = s.clkOut ∧ t.dioOut = s.dioOut ∧ t.dioDir = d)) ∧
  (∀ (s : State) (rest : List Turn) (e : PinEvent) (es : List PinEvent), s.turns = .serial :: rest → s.q = e :: es →
    s.pinFault = true → ∃ t, step s = .next t ∧ t.q = [] ∧ t.errCode = .pinFailure ∧
      t.wireTrace = s.wireTrace ++ [.failed e] ∧ t.faults = s.faults ++ [.bus e])

/-- 41_serial_bus.md R159: at a bus step whose pin write fails, the event's latch takes some value and no other latch changes, the
marker is appended, Q is emptied, ERR_CODE is 5 and the failure recorded. -/
def Obligations.BusStepFailureDiscardsQueue : Prop :=
  ∀ (s : State) (rest : List Turn) (e : PinEvent) (es : List PinEvent), s.turns = .serial :: rest → s.q = e :: es →
    s.pinFault = true → ∃ t, step s = .next t ∧
    t = { s with
      turns := rest, stepNo := s.stepNo + 1, pinFaults := s.pinFaults.tail, q := [],
      wireTrace := s.wireTrace ++ [.failed e], errCode := .pinFailure, faults := s.faults ++ [.bus e],
      draws := s.draws + 1, clkOut := t.clkOut, dioOut := t.dioOut, dioDir := t.dioDir } ∧
    ((∃ b, e = .clk b) ∨ t.clkOut = s.clkOut) ∧ ((∃ b, e = .dio b) ∨ t.dioOut = s.dioOut) ∧
    ((∃ d, e = .dir d) ∨ t.dioDir = s.dioDir)

/-- 20_memory.md R78: with no pin failure, before or during them, as many bus steps as Q has events perform them all in order,
and BUSY is 0. -/
def Obligations.BusStepsDrainQueueInOrder : Prop :=
  ∀ s : State, s.NoFaultRecorded → s.pinsAnswerOk = true →
    (busSteps s.q.length s).NoFaultRecorded ∧ (busSteps s.q.length s).wireTrace = s.wireTrace ++ s.q.map .performed ∧
    (busSteps s.q.length s).q = [] ∧ (busSteps s.q.length s).busy = false ∧
    (busSteps s.q.length s).pins = performEvents s.pins s.q

/-- 41_serial_bus.md R148: the event list of a session, written out over the lists of R143 to R147 and the bytes of 30_encoding.md
R101 and R102; it is the three frames of the grammar of 30_encoding.md R104. -/
def Obligations.SessionFollowsFrameGrammar : Prop :=
  ∀ (p : Params) (a : BitVec 4) (patterns : List Byte) (level : BitVec 3),
    (let start := [PinEvent.dio 1#1, .clk 1#1, .dio 0#1, .clk 0#1]
     let stop := [PinEvent.clk 0#1, .dio 0#1, .clk 1#1, .dio 1#1]
     let byte := fun b : Byte => (bitsLsbFirst b).flatMap (fun v => [PinEvent.clk 0#1, .dio v, .clk 1#1]) ++ p.ackSeq
     sessionSeq p a patterns level
      = start ++ byte p.cmdData ++ (stop ++ start) ++ byte (p.cmdAddr ||| a.setWidth 8) ++ patterns.flatMap byte
        ++ (stop ++ start) ++ byte (p.cmdCtrl ||| 0x08#8 ||| level.setWidth 8) ++ stop) ∧
    sessionSeq p a patterns level
      = (sessionSegments p.cmdData (p.cmdAddr ||| a.setWidth 8) patterns
          (p.cmdCtrl ||| 0x08#8 ||| level.setWidth 8)).flatMap (segmentEvents p)

/-- The event counts of 41_serial_bus.md R156, for an acknowledgement of five events. -/
def Obligations.EventCounts : Prop :=
  ∀ (p : Params) (a : BitVec 4) (patterns : List Byte) (level : BitVec 3) (b : Byte), p.ackSeq.length = 5 →
    startSeq.length = 4 ∧ stopSeq.length = 4 ∧ turnaround.length = 8 ∧ (byteSeq p b).length = 29 ∧
    (sessionSeq p a patterns level).length = 111 + 29 * patterns.length

/-- With the default ACK_SEQ, from latches with the engine driving DIO and CLK low or high, a byte frame has nine rises of CLK
(41_serial_bus.md R156), and at the first eight the line carries the bits of the byte, least significant first; after it CLK
is low, DIO is driven and holds bit 7 (R146). -/
def Obligations.ByteFrameCarriesByte : Prop :=
  ∀ (p : Params) (pins : Pins) (b : Byte), p.ackSeq = defaultAckSeq → pins.dir = .output →
    clkRises pins (byteSeq p b) = 9 ∧ sampledBits pins (byteSeq p b) = bitsLsbFirst b ∧
    performEvents pins (byteSeq p b) = { clk := 0#1, dio := b.extractLsb' 7 1, dir := .output }

/-- What a receiver that samples DIO at the rises of CLK (`sampledBits`, the model's own notion of a receiver) reads of a whole
session begun on an idle bus, with the default ACK_SEQ: the bits of every byte, in order and least significant first, with the
one rise inside each stop condition (DIO low) after each frame. It reads the same of the level view, the session with its
no-change events removed, over which 41_serial_bus.md R160 asks that a claim about the receiver be put. -/
def Obligations.SessionCarriesItsBytes : Prop :=
  ∀ (p : Params) (pins : Pins) (a : BitVec 4) (patterns : List Byte) (level : BitVec 3), p.ackSeq = defaultAckSeq →
    pins.clk = 1#1 → pins.dir = .output →
    sampledBits pins (sessionSeq p a patterns level)
      = bitsLsbFirst p.cmdData ++ [0#1] ++ (bitsLsbFirst (addrByte p a) ++ patterns.flatMap bitsLsbFirst) ++ [0#1]
        ++ bitsLsbFirst (ctrlByte p level) ++ [0#1] ∧
    sampledBits pins (levelChanges pins (sessionSeq p a patterns level))
      = sampledBits pins (sessionSeq p a patterns level)

/-- The line discipline of 41_serial_bus.md R157, an inference of the spec, with the default ACK_SEQ: from the idle bus, or any
latches a sequence can end in, the engine changes DIO or turns it while CLK is high exactly at the start conditions (a fall)
and the stop conditions (a rise), whatever the sequence of starts, stops and bytes. -/
def Obligations.LineDiscipline : Prop :=
  ∀ (p : Params) (pins : Pins) (gs : List Segment), p.ackSeq = defaultAckSeq → pins.dir = .output →
    (pins.clk = 0#1 ∨ pins.dio = 1#1) →
    (highClockChanges pins (gs.flatMap (segmentEvents p))).map (fun x => x.2) = conditionsOf gs

/-- Session atomicity and order on the wire (20_memory.md R78, R80): in every step but reset after which no pin failure is
recorded (the premise 60_exceptions.md R262 asks of claims; the record only grows), the
committed output (the wire trace followed by Q) is unchanged, or has the whole event list of the one accepted command
appended, and then Q was empty. -/
def Obligations.CommittedOutputGrowsByWholeCommands : Prop :=
  ∀ (s t : State) (turn : Turn) (rest : List Turn), s.turns = turn :: rest → turn ≠ .reset → step s = .next t →
    t.NoFaultRecorded →
    t.committed = s.committed ∨
    ((turn = .host ∨ turn = .task) ∧ s.q = [] ∧ ∃ w i, presentedWord turn s = some w ∧ decode w = .ok i ∧
      t.committed = s.committed ++ (busEvents s i).map .performed)

/-- A whole display session, with the default ACK_SEQ: SET_SEGMENTS presented on an idle engine with legal operands, then the
engine's 111 + 29 N bus steps, no pin failure recorded before (60_exceptions.md R262) and none to come: the wire trace has
the session appended and nothing else, BUSY is 0, ERR_CODE is 0 and the bus is idle. -/
def Obligations.SetSegmentsCompletesSession : Prop :=
  ∀ (s : State) (addr n : BitVec 4) (rest : List Turn),
    s.NoFaultRecorded → s.IsMbpe → s.params.ackSeq = defaultAckSeq → s.q = [] → s.pinsAnswerOk = true →
    s.port = some (encode (.setSegments addr n)) →
    addr.toNat ≤ 5 → addr.toNat + n.toNat ≤ 6 →
    s.turns = .host :: (List.replicate (111 + 29 * n.toNat) .serial ++ rest) →
    ∃ t, Sys2Proof.core.run (112 + 29 * n.toNat) s = .next t ∧ t.finalObservation = some t.observe ∧
      t.wireTrace = s.wireTrace
        ++ (sessionSeq s.params addr (s.segBuf.toList.take n.toNat) s.bright).map .performed ∧
      t.q = [] ∧ t.busy = false ∧ t.errCode = .ok ∧ t.clkOut = 1#1 ∧ t.dioOut = 1#1 ∧ t.dioDir = .output ∧
      t.turns = rest ∧ t.segBuf = s.segBuf

/-! ### The traffic FSM -/

/-- 43_traffic_light.md R222 within a wait: a TICK is ignored while TL_RUN = 0, and one that does not end the wait only counts. -/
def Obligations.TickCountsDown : Prop :=
  (∀ (s : State) (rest : List Turn), s.turns = .tick :: rest → s.tlRun = 0#1 →
    step s = .next { s with turns := rest, stepNo := s.stepNo + 1 }) ∧
  (∀ (s : State) (rest : List Turn), s.turns = .tick :: rest → s.tlRun = 1#1 → s.Inv → 1 < s.tlCnt.toNat →
    ∃ t, step s = .next t ∧ t = { s with turns := rest, stepNo := s.stepNo + 1, tlCnt := t.tlCnt } ∧
      t.tlCnt.toNat + 1 = s.tlCnt.toNat)

/-- The ends of the waits (43_traffic_light.md R216 to R219, R223) at a TICK with no pin failure and no zero duration: Red to
Green, Green to the blink tail, slot to slot, the last slot to Amber, Amber to Red. -/
def Obligations.PhaseTransitions : Prop :=
  ∀ s : State, s.IsMbpe → s.tlRun = 1#1 → s.tlCnt = 1#9 → s.pinsAnswerOk = true → 5 ≤ s.tlG.toNat →
    (s.tlPhase = .red → tick s = .next { s with
      lampR := 0#1, lampG := 1#1, tlPhase := .green, tlCnt := BitVec.ofNat 9 (2 * (s.tlG.toNat - 3)),
      phaseTrace := s.phaseTrace ++ noticeIf s.tlCbEn 1#2 s.tlG, pinFaults := s.pinFaults.drop 2 }) ∧
    (s.tlPhase = .green → tick s = .next { s with tlPhase := .greenBlink, tlBlink := 0#3, tlCnt := 1#9 }) ∧
    (s.tlPhase = .greenBlink → s.tlBlink.toNat ≤ 4 → tick s = .next { s with
      lampG := if s.tlBlink.toNat % 2 = 0 then 1#1 else 0#1, tlBlink := s.tlBlink + 1#3, tlCnt := 1#9,
      pinFaults := s.pinFaults.drop 1 }) ∧
    (s.tlPhase = .greenBlink → s.tlBlink = 5#3 → s.tlA ≠ 0#8 → tick s = .next { s with
      lampG := 0#1, lampA := 1#1, tlPhase := .amber, tlCnt := BitVec.ofNat 9 (2 * s.tlA.toNat),
      phaseTrace := s.phaseTrace ++ noticeIf s.tlCbEn 3#2 s.tlA, pinFaults := s.pinFaults.drop 2 }) ∧
    (s.tlPhase = .amber → s.tlR ≠ 0#8 → tick s = .next { s with
      lampA := 0#1, lampR := 1#1, tlPhase := .red, tlCnt := BitVec.ofNat 9 (2 * s.tlR.toNat),
      phaseTrace := s.phaseTrace ++ noticeIf s.tlCbEn 0#2 s.tlR, pinFaults := s.pinFaults.drop 2 })

/-- 43_traffic_light.md R221: a zero-second amber or red is entered and left in one step, its lamp reads 0 after it, and its
phase-event is still emitted, with duration 0. -/
def Obligations.ZeroDurationPhasesPassThrough : Prop :=
  ∀ s : State, s.IsMbpe → s.tlRun = 1#1 → s.tlCnt = 1#9 → s.pinsAnswerOk = true → 5 ≤ s.tlG.toNat →
    (s.tlPhase = .amber → s.tlR = 0#8 → tick s = .next { s with
      lampA := 0#1, lampR := 0#1, lampG := 1#1, tlPhase := .green, tlCnt := BitVec.ofNat 9 (2 * (s.tlG.toNat - 3)),
      phaseTrace := s.phaseTrace ++ noticeIf s.tlCbEn 0#2 0#8 ++ noticeIf s.tlCbEn 1#2 s.tlG,
      pinFaults := s.pinFaults.drop 4 }) ∧
    (s.tlPhase = .greenBlink → s.tlBlink = 5#3 → s.tlA = 0#8 → s.tlR ≠ 0#8 → tick s = .next { s with
      lampG := 0#1, lampA := 0#1, lampR := 1#1, tlPhase := .red, tlCnt := BitVec.ofNat 9 (2 * s.tlR.toNat),
      phaseTrace := s.phaseTrace ++ noticeIf s.tlCbEn 3#2 0#8 ++ noticeIf s.tlCbEn 0#2 s.tlR,
      pinFaults := s.pinFaults.drop 4 }) ∧
    (s.tlPhase = .greenBlink → s.tlBlink = 5#3 → s.tlA = 0#8 → s.tlR = 0#8 → tick s = .next { s with
      lampG := 1#1, lampA := 0#1, lampR := 0#1, tlPhase := .green, tlCnt := BitVec.ofNat 9 (2 * (s.tlG.toNat - 3)),
      phaseTrace := s.phaseTrace ++ noticeIf s.tlCbEn 3#2 0#8 ++ noticeIf s.tlCbEn 0#2 0#8
        ++ noticeIf s.tlCbEn 1#2 s.tlG,
      pinFaults := s.pinFaults.drop 6 })

/-- 43_traffic_light.md R229: a failed lamp write: the lamp takes some level, the rest of the step is not performed, the cycle
stops, ERR_CODE is 5, the failure is recorded, and phase-events already emitted stay. Said of any lamp write, and of the two
writes of the TICK that ends Red. -/
def Obligations.LampFailureCutsStep : Prop :=
  (∀ (s : State) (l : Lamp) (b : Bit) (rest : State → State),
    (s.pinFault = false → lampWrite l b rest s = rest ({ s with pinFaults := s.pinFaults.tail }.setLamp l b)) ∧
    (s.pinFault = true → ∃ level : Bit, lampWrite l b rest s
      = { s.setLamp l level with
          tlRun := 0#1, errCode := .pinFailure, faults := s.faults ++ [.lamp l b],
          pinFaults := s.pinFaults.tail, draws := s.draws + 1 } ∧
      (lampWrite l b rest s).phaseTrace = s.phaseTrace)) ∧
  (∀ s : State, s.IsMbpe → s.tlRun = 1#1 → s.tlCnt = 1#9 → s.tlPhase = .red → 5 ≤ s.tlG.toNat →
    (s.answer 0 = true → ∃ level : Bit, tick s = .next { s with
      tlCnt := 0#9, tlRun := 0#1, lampR := level, errCode := .pinFailure, faults := s.faults ++ [.lamp .red 0#1],
      pinFaults := s.pinFaults.drop 1, draws := s.draws + 1 }) ∧
    (s.answer 0 = false → s.answer 1 = true → ∃ level : Bit, tick s = .next { s with
      tlCnt := 0#9, tlRun := 0#1, lampR := 0#1, lampG := level, errCode := .pinFailure,
      faults := s.faults ++ [.lamp .green 1#1], pinFaults := s.pinFaults.drop 2, draws := s.draws + 1 }))

/-- 43_traffic_light.md R233: with TL_CB_EN = 0 nothing is announced, and the cycle proceeds the same either way: two TICKs that
differ only in TL_CB_EN leave states that differ only in it and in the phase-event trace. -/
def Obligations.NotificationDoesNotDisturbCycle : Prop :=
  (∀ (s : State) (p : Phase) (d : Byte),
    s.notify p d = { s with phaseTrace := s.phaseTrace ++ noticeIf s.tlCbEn (phaseBits p) d }) ∧
  ∀ s t : State, tick { s with tlCbEn := 0#1 } = .next t →
    t.phaseTrace = s.phaseTrace ∧
    ∃ events, tick { s with tlCbEn := 1#1 } = .next { t with tlCbEn := 1#1, phaseTrace := s.phaseTrace ++ events }

/-- A cycle started with all lamps dark keeps at most its phase's lamp lit, if no pin write fails: a TL_START that succeeds from
dark lamps leaves only the phase's lamp lit, and every TICK keeps it so. This is the inference the spec draws in
43_traffic_light.md R226, marked derived there. -/
def Obligations.TickKeepsOnlyPhaseLampLit : Prop :=
  (∀ s : State, s.IsMbpe → s.pinsAnswerOk = true → 4 < s.tlCfgGreen.toNat →
    s.lampR = 0#1 → s.lampA = 0#1 → s.lampG = 0#1 →
    ∃ t, exec .tlStart s = .next t ∧ t.onlyPhaseLamp = true ∧ t.tlRun = 1#1) ∧
  (∀ s t : State, s.IsMbpe → s.tlRun = 1#1 → s.pinsAnswerOk = true → s.onlyPhaseLamp = true → tick s = .next t →
    t.onlyPhaseLamp = true ∧ t.tlRun = 1#1)

/-- The cycle repeats every 2 (R + G + A) TICKs (43_traffic_light.md R227, an inference of the spec), zero durations
included: from the step that entered Green, with no pin failure before (60_exceptions.md R262) or after, that many TICKs lead
to Green just entered again, with green lit, red and amber dark, and the phases announced in between in order. -/
def Obligations.CycleRepeats : Prop :=
  ∀ (s : State) (rest : List Turn), s.NoFaultRecorded → s.IsMbpe → s.tlRun = 1#1 → s.tlPhase = .green → 5 ≤ s.tlG.toNat →
    s.tlCnt = BitVec.ofNat 9 (2 * (s.tlG.toNat - 3)) → s.pinsAnswerOk = true →
    s.turns = List.replicate (2 * (s.tlR.toNat + s.tlG.toNat + s.tlA.toNat)) .tick ++ rest →
    Sys2Proof.core.run (2 * (s.tlR.toNat + s.tlG.toNat + s.tlA.toNat)) s = .next { s with
      turns := rest, stepNo := s.stepNo + 2 * (s.tlR.toNat + s.tlG.toNat + s.tlA.toNat), tlBlink := 5#3,
      lampR := 0#1, lampA := 0#1, lampG := 1#1, pinFaults := s.pinFaults.drop 11,
      phaseTrace := s.phaseTrace ++ noticeIf s.tlCbEn 3#2 s.tlA ++ noticeIf s.tlCbEn 0#2 s.tlR
        ++ noticeIf s.tlCbEn 1#2 s.tlG }

/-! ### Invariants, isolation -/

/-- The reset state meets the invariant of a run. -/
def Obligations.ResetMeetsInvariant : Prop := State.reset.Inv

/-- Every step keeps the invariant of a run: Q within its bound (10_state.md R43), the blink slot 0 to 5 (R51), a running cycle's
count at least 1 and within its phase's wait, green at least 5 seconds, and the phase's lamp lit, or dark in blink slots 2
and 4 (43_traffic_light.md R216 to R223). -/
def Obligations.StepKeepsInvariant : Prop := ∀ s t : State, s.Inv → step s = .next t → t.Inv

/-- From a state that meets the invariant no step stops: it answers a next state. -/
def Obligations.InvariantStepsNeverStop : Prop := ∀ s : State, s.Inv → ∃ t, step s = .next t

/-- A bus step and a TICK commute when no pin write has failed (60_exceptions.md R262) or fails (20_memory.md R83): the two orders
end in the same state. Left out is a failure of one of the two: the model's one list of pin answers (log entry 3) gives it to
whichever step comes first. -/
def Obligations.BusStepAndTickCommute : Prop :=
  ∀ (s : State) (rest : List Turn), s.NoFaultRecorded → s.pinsAnswerOk = true →
    Sys2Proof.core.run 2 { s with turns := .serial :: .tick :: rest }
      = Sys2Proof.core.run 2 { s with turns := .tick :: .serial :: rest }

/-! ### The host's pseudo-operations -/

/-- NUMBER's text (42_host_display_ops.md R184): spaces, and then the decimal of the number clamped to -999..9999 (a dash for a
negative one, its digits without leading zeros, "0" for 0), four characters in all and each of them encodable; a number outside
the range shows as the nearer bound. -/
def Obligations.NumberTextFitsDisplay : Prop :=
  (∀ n : Int, -999 ≤ n → n ≤ 9999 →
    (let decimal : List Byte := (if n < 0 then [0x2D#8] else [])
      ++ (if n = 0 then [0x30#8] else (Nat.digits 10 n.natAbs).reverse.map fun d => BitVec.ofNat 8 (0x30 + d))
     decimal.length ≤ 4 ∧ numberText n = List.replicate (4 - decimal.length) 0x20#8 ++ decimal)) ∧
  (∀ n : Int, (numberText n).length = 4 ∧ (∀ c ∈ numberText n, charIndex c ≠ none) ∧
    (9999 ≤ n → numberText n = numberText 9999) ∧ (n ≤ -999 → numberText n = numberText (-999)))

/-- A TEXT_SESSION of encodable characters (42_host_display_ops.md R182, 40_seg_encoder.md R129), issued by the caller on an idle
engine with the host moving alone: after the caller's 2 L + 1 acts (the host's acts are the model's choice, log entry 11) the
engine has exactly the session of the encoded text queued, the buffer begins with it, ERR_CODE is 0 and nothing has been on the
wire yet. No pin failure is recorded before (60_exceptions.md R262), so the end is a final state. -/
def Obligations.TextSessionQueuesEncodedText : Prop :=
  ∀ (s : State) (text : List Byte) (point : Bit) (addr : BitVec 4) (patterns : List Byte) (rest : List Turn),
    s.NoFaultRecorded → s.IsMbpe → addr.toNat ≤ 5 → addr.toNat + text.length ≤ 6 → s.q = [] → s.port = none →
    s.hostProg = textSession text point addr → s.turns = List.replicate (2 * text.length + 1) .host ++ rest →
    encodeString s.params point text = .ok patterns →
    ∃ t, Sys2Proof.core.run (2 * text.length + 1) s = .next t ∧ t.finalObservation = some t.observe ∧
      t.q = sessionSeq s.params addr patterns s.bright ∧ t.segBuf.toList.take text.length = patterns ∧
      t.errCode = .ok ∧ t.wireTrace = s.wireTrace ∧ t.hostErrors = s.hostErrors ∧ t.hostProg = [] ∧ t.turns = rest

/-- A TEXT_SESSION with an invalid character (42_host_display_ops.md R182, 40_seg_encoder.md R129): the host abandons it at the
first one and reports InvalidCharacter with that character and its position; no SET_SEGMENTS is issued and there is no bus
activity. The same of SCROLL (R186), whose ENCODE pass leaves the buffer alone and counts the position itself. No pin failure is
recorded before (60_exceptions.md R262), so the end is a final state. The host's acts are the model's choice (log entry 11). -/
def Obligations.TextSessionAbandonsInvalidText : Prop :=
  (∀ (s : State) (text : List Byte) (point : Bit) (addr : BitVec 4) (char : Byte) (pos : Nat) (rest : List Turn),
    s.NoFaultRecorded → s.IsMbpe → text.length ≤ 6 → s.q = [] → s.port = none →
    s.hostProg = textSession text point addr → s.turns = List.replicate (2 * pos + 2) .host ++ rest →
    encodeString s.params point text = .error (char, pos) →
    ∃ t, Sys2Proof.core.run (2 * pos + 2) s = .next t ∧ t.finalObservation = some t.observe ∧
      t.q = [] ∧ t.wireTrace = s.wireTrace ∧ t.hostProg = [] ∧ t.port = none ∧
      t.errCode = .invalidCharacter ∧ t.errChar = char ∧ t.errPos.toNat = pos ∧
      t.hostErrors = s.hostErrors ++ [{ char := char, position := pos }] ∧ t.turns = rest) ∧
  (∀ (s : State) (text : List Byte) (char : Byte) (pos : Nat) (rest : List Turn),
    s.NoFaultRecorded → s.port = none → s.hostProg = scrollProg text →
    s.turns = List.replicate (2 * pos + 2) .host ++ rest →
    encodeString s.params 0 text = .error (char, pos) →
    ∃ t, Sys2Proof.core.run (2 * pos + 2) s = .next t ∧ t.finalObservation = some t.observe ∧
      t.q = s.q ∧ t.segBuf = s.segBuf ∧ t.wireTrace = s.wireTrace ∧ t.hostProg = [] ∧
      t.hostErrors = s.hostErrors ++ [{ char := char, position := pos }] ∧ t.turns = rest)
end

