-- ==== Sys2Proof/Laws/Decode.lean ====
section
/-! SUPPORT. The decoder by OP: the rows' patterns differ in OP, so the OP alone names the row and the row's mask decides
the rest (30_encoding.md R97). -/

namespace Sys2Proof

theorem word_eq_iff (x y : Word) : x = y ↔ opOf x = opOf y ∧ x.extractLsb' 0 28 = y.extractLsb' 0 28 := by
  constructor
  · rintro rfl; exact ⟨rfl, rfl⟩
  · rintro ⟨hi, lo⟩
    apply BitVec.eq_of_getLsbD_eq
    intro k hk
    by_cases h : k < 28
    · have := congrArg (fun v : BitVec 28 => v.getLsbD k) lo
      simpa [BitVec.getLsbD_extractLsb', h] using this
    · have := congrArg (fun v : BitVec 4 => v.getLsbD (k - 28)) hi
      have h4 : k - 28 < 4 := by omega
      have hk' : 28 + (k - 28) = k := by omega
      simpa [opOf, BitVec.getLsbD_extractLsb', h4, hk'] using this

/-- A row whose mask covers OP takes a word iff the OP is the row's and the word's masked operand bits are 0. -/
theorem row_takes_iff (w mask pattern : Word) (hm : opOf mask = 0xF#4) (hp : pattern.extractLsb' 0 28 = 0#28) :
    (w &&& mask == pattern)
      = (decide (opOf w = opOf pattern) && (w.extractLsb' 0 28 &&& mask.extractLsb' 0 28 == 0#28)) := by
  have h1 : opOf (w &&& mask) = opOf w := by
    have : opOf (w &&& mask) = opOf w &&& opOf mask := by simp [opOf, BitVec.extractLsb'_and]
    rw [this, hm]
    exact BitVec.and_allOnes
  rw [Bool.eq_iff_iff]
  simp only [beq_iff_eq, Bool.and_eq_true, decide_eq_true_eq]
  rw [word_eq_iff, h1, hp, BitVec.extractLsb'_and]

/-- The rows' patterns differ in OP (30_encoding.md R97), so no word is taken by two rows. -/
theorem opcodeRows_ops_differ : opcodeRows.Pairwise fun x y => opOf x.pattern ≠ opOf y.pattern := by decide

/-- Every row's mask covers OP, and its pattern has no bit outside OP (30_encoding.md R93). -/
theorem opcodeRows_cover : ∀ r ∈ opcodeRows, opOf r.mask = 0xF#4 ∧ r.pattern.extractLsb' 0 28 = 0#28 := by decide

theorem find_by_key {α β : Type} [DecidableEq β] (key : α → β) (c : α → Bool) (b : β) (l : List α)
    (h : l.Pairwise fun x y => key x ≠ key y) :
    l.find? (fun r => decide (b = key r) && c r) = (l.find? fun r => key r == b).filter c := by
  induction l with
  | nil => rfl
  | cons a l ih =>
    have ⟨ha, hl⟩ := List.pairwise_cons.1 h
    by_cases hb : b = key a
    · have hnone : l.find? (fun r => decide (b = key r) && c r) = none := by
        rw [List.find?_eq_none]
        intro x hx
        simp [hb, ha x hx]
      cases hc : c a <;> simp [hb, hc, Option.filter]
      intro x hx h
      exact absurd h (ha x hx)
    · simp [hb, ih hl, beq_eq_false_iff_ne.2 (Ne.symm hb)]

/-- The decoder by OP: the row of the word's OP, if there is one, takes the word iff its reserved bits are 0. -/
theorem decode_by_op (w : Word) : decode w =
    match opcodeRows.find? (fun r => opOf r.pattern == opOf w) with
    | some r =>
      if w.extractLsb' 0 28 &&& r.mask.extractLsb' 0 28 = 0#28 then .ok (r.build w) else .error (illegalReason w)
    | none => .error (illegalReason w) := by
  have key : ∀ r ∈ opcodeRows, (w &&& r.mask == r.pattern)
      = (decide (opOf w = opOf r.pattern) && (w.extractLsb' 0 28 &&& r.mask.extractLsb' 0 28 == 0#28)) :=
    fun r hr => row_takes_iff w r.mask r.pattern (opcodeRows_cover r hr).1 (opcodeRows_cover r hr).2
  have found := (List.find?_congr key).trans (find_by_key (fun r : OpcodeRow => opOf r.pattern)
    (fun r => w.extractLsb' 0 28 &&& r.mask.extractLsb' 0 28 == 0#28) (opOf w) opcodeRows opcodeRows_ops_differ)
  simp only [decode, found]
  cases opcodeRows.find? (fun r => opOf r.pattern == opOf w) with
  | none => rfl
  | some r =>
    by_cases h : w.extractLsb' 0 28 &&& r.mask.extractLsb' 0 28 = 0#28 <;> simp [Option.filter, h]

/-- The decoder on a word whose OP names the row `r`. -/
theorem decode_of_op {w : Word} {r : OpcodeRow} (hr : opcodeRows.find? (fun r => opOf r.pattern == opOf w) = some r) :
    decode w = if w.extractLsb' 0 28 &&& r.mask.extractLsb' 0 28 = 0#28 then .ok (r.build w)
      else .error (illegalReason w) := by rw [decode_by_op, hr]

end Sys2Proof
end

