-- ==== Sys2Proof/Laws/State.lean ====
section
/-! SUPPORT. What each named update of the state does to each field: one lemma per field per update, so that no later
proof unfolds a record update. -/

namespace Sys2Proof.Machine

/-! ### `accept` -/

@[simp] theorem State.accept_clkOut (s : State) : s.accept.clkOut = s.clkOut := rfl
@[simp] theorem State.accept_dioOut (s : State) : s.accept.dioOut = s.dioOut := rfl
@[simp] theorem State.accept_dioDir (s : State) : s.accept.dioDir = s.dioDir := rfl
@[simp] theorem State.accept_q (s : State) : s.accept.q = s.q := rfl
@[simp] theorem State.accept_bright (s : State) : s.accept.bright = s.bright := rfl
@[simp] theorem State.accept_segBuf (s : State) : s.accept.segBuf = s.segBuf := rfl
@[simp] theorem State.accept_result (s : State) : s.accept.result = s.result := rfl
@[simp] theorem State.accept_errCode (s : State) : s.accept.errCode = s.errCode := rfl
@[simp] theorem State.accept_errChar (s : State) : s.accept.errChar = s.errChar := rfl
@[simp] theorem State.accept_errPos (s : State) : s.accept.errPos = s.errPos := rfl
@[simp] theorem State.accept_tlCfgRed (s : State) : s.accept.tlCfgRed = s.tlCfgRed := rfl
@[simp] theorem State.accept_tlCfgAmber (s : State) : s.accept.tlCfgAmber = s.tlCfgAmber := rfl
@[simp] theorem State.accept_tlCfgGreen (s : State) : s.accept.tlCfgGreen = s.tlCfgGreen := rfl
@[simp] theorem State.accept_tlCbEn (s : State) : s.accept.tlCbEn = s.tlCbEn := rfl
@[simp] theorem State.accept_tlRun (s : State) : s.accept.tlRun = s.tlRun := rfl
@[simp] theorem State.accept_tlPhase (s : State) : s.accept.tlPhase = s.tlPhase := rfl
@[simp] theorem State.accept_tlR (s : State) : s.accept.tlR = s.tlR := rfl
@[simp] theorem State.accept_tlA (s : State) : s.accept.tlA = s.tlA := rfl
@[simp] theorem State.accept_tlG (s : State) : s.accept.tlG = s.tlG := rfl
@[simp] theorem State.accept_tlCnt (s : State) : s.accept.tlCnt = s.tlCnt := rfl
@[simp] theorem State.accept_tlBlink (s : State) : s.accept.tlBlink = s.tlBlink := rfl
@[simp] theorem State.accept_lampR (s : State) : s.accept.lampR = s.lampR := rfl
@[simp] theorem State.accept_lampA (s : State) : s.accept.lampA = s.lampA := rfl
@[simp] theorem State.accept_lampG (s : State) : s.accept.lampG = s.lampG := rfl
@[simp] theorem State.accept_params (s : State) : s.accept.params = s.params := rfl
@[simp] theorem State.accept_port (s : State) : s.accept.port = none := rfl
@[simp] theorem State.accept_portThread (s : State) : s.accept.portThread = s.portThread := rfl
@[simp] theorem State.accept_wireTrace (s : State) : s.accept.wireTrace = s.wireTrace := rfl
@[simp] theorem State.accept_phaseTrace (s : State) : s.accept.phaseTrace = s.phaseTrace := rfl
@[simp] theorem State.accept_faults (s : State) : s.accept.faults = s.faults := rfl
@[simp] theorem State.accept_resetMarks (s : State) : s.accept.resetMarks = s.resetMarks := rfl
@[simp] theorem State.accept_turns (s : State) : s.accept.turns = s.turns := rfl
@[simp] theorem State.accept_hostProg (s : State) : s.accept.hostProg = s.hostProg := rfl
@[simp] theorem State.accept_hostTask (s : State) : s.accept.hostTask = s.hostTask := rfl
@[simp] theorem State.accept_hostErrors (s : State) : s.accept.hostErrors = s.hostErrors := rfl
@[simp] theorem State.accept_hostReads (s : State) : s.accept.hostReads = s.hostReads := rfl
@[simp] theorem State.accept_pinFaults (s : State) : s.accept.pinFaults = s.pinFaults := rfl
@[simp] theorem State.accept_stepNo (s : State) : s.accept.stepNo = s.stepNo := rfl
@[simp] theorem State.accept_draws (s : State) : s.accept.draws = s.draws := rfl

/-! ### `hold` -/

@[simp] theorem State.hold_clkOut (s : State) (w : Word) : (s.hold w).clkOut = s.clkOut := rfl
@[simp] theorem State.hold_dioOut (s : State) (w : Word) : (s.hold w).dioOut = s.dioOut := rfl
@[simp] theorem State.hold_dioDir (s : State) (w : Word) : (s.hold w).dioDir = s.dioDir := rfl
@[simp] theorem State.hold_q (s : State) (w : Word) : (s.hold w).q = s.q := rfl
@[simp] theorem State.hold_bright (s : State) (w : Word) : (s.hold w).bright = s.bright := rfl
@[simp] theorem State.hold_segBuf (s : State) (w : Word) : (s.hold w).segBuf = s.segBuf := rfl
@[simp] theorem State.hold_result (s : State) (w : Word) : (s.hold w).result = s.result := rfl
@[simp] theorem State.hold_errCode (s : State) (w : Word) : (s.hold w).errCode = s.errCode := rfl
@[simp] theorem State.hold_errChar (s : State) (w : Word) : (s.hold w).errChar = s.errChar := rfl
@[simp] theorem State.hold_errPos (s : State) (w : Word) : (s.hold w).errPos = s.errPos := rfl
@[simp] theorem State.hold_tlCfgRed (s : State) (w : Word) : (s.hold w).tlCfgRed = s.tlCfgRed := rfl
@[simp] theorem State.hold_tlCfgAmber (s : State) (w : Word) : (s.hold w).tlCfgAmber = s.tlCfgAmber := rfl
@[simp] theorem State.hold_tlCfgGreen (s : State) (w : Word) : (s.hold w).tlCfgGreen = s.tlCfgGreen := rfl
@[simp] theorem State.hold_tlCbEn (s : State) (w : Word) : (s.hold w).tlCbEn = s.tlCbEn := rfl
@[simp] theorem State.hold_tlRun (s : State) (w : Word) : (s.hold w).tlRun = s.tlRun := rfl
@[simp] theorem State.hold_tlPhase (s : State) (w : Word) : (s.hold w).tlPhase = s.tlPhase := rfl
@[simp] theorem State.hold_tlR (s : State) (w : Word) : (s.hold w).tlR = s.tlR := rfl
@[simp] theorem State.hold_tlA (s : State) (w : Word) : (s.hold w).tlA = s.tlA := rfl
@[simp] theorem State.hold_tlG (s : State) (w : Word) : (s.hold w).tlG = s.tlG := rfl
@[simp] theorem State.hold_tlCnt (s : State) (w : Word) : (s.hold w).tlCnt = s.tlCnt := rfl
@[simp] theorem State.hold_tlBlink (s : State) (w : Word) : (s.hold w).tlBlink = s.tlBlink := rfl
@[simp] theorem State.hold_lampR (s : State) (w : Word) : (s.hold w).lampR = s.lampR := rfl
@[simp] theorem State.hold_lampA (s : State) (w : Word) : (s.hold w).lampA = s.lampA := rfl
@[simp] theorem State.hold_lampG (s : State) (w : Word) : (s.hold w).lampG = s.lampG := rfl
@[simp] theorem State.hold_params (s : State) (w : Word) : (s.hold w).params = s.params := rfl
@[simp] theorem State.hold_port (s : State) (w : Word) : (s.hold w).port = some w := rfl
@[simp] theorem State.hold_portThread (s : State) (w : Word) : (s.hold w).portThread = s.portThread := rfl
@[simp] theorem State.hold_wireTrace (s : State) (w : Word) : (s.hold w).wireTrace = s.wireTrace := rfl
@[simp] theorem State.hold_phaseTrace (s : State) (w : Word) : (s.hold w).phaseTrace = s.phaseTrace := rfl
@[simp] theorem State.hold_faults (s : State) (w : Word) : (s.hold w).faults = s.faults := rfl
@[simp] theorem State.hold_resetMarks (s : State) (w : Word) : (s.hold w).resetMarks = s.resetMarks := rfl
@[simp] theorem State.hold_turns (s : State) (w : Word) : (s.hold w).turns = s.turns := rfl
@[simp] theorem State.hold_hostProg (s : State) (w : Word) : (s.hold w).hostProg = s.hostProg := rfl
@[simp] theorem State.hold_hostTask (s : State) (w : Word) : (s.hold w).hostTask = s.hostTask := rfl
@[simp] theorem State.hold_hostErrors (s : State) (w : Word) : (s.hold w).hostErrors = s.hostErrors := rfl
@[simp] theorem State.hold_hostReads (s : State) (w : Word) : (s.hold w).hostReads = s.hostReads := rfl
@[simp] theorem State.hold_pinFaults (s : State) (w : Word) : (s.hold w).pinFaults = s.pinFaults := rfl
@[simp] theorem State.hold_stepNo (s : State) (w : Word) : (s.hold w).stepNo = s.stepNo := rfl
@[simp] theorem State.hold_draws (s : State) (w : Word) : (s.hold w).draws = s.draws := rfl

/-! ### `succeed` -/

@[simp] theorem State.succeed_clkOut (s : State) : s.succeed.clkOut = s.clkOut := rfl
@[simp] theorem State.succeed_dioOut (s : State) : s.succeed.dioOut = s.dioOut := rfl
@[simp] theorem State.succeed_dioDir (s : State) : s.succeed.dioDir = s.dioDir := rfl
@[simp] theorem State.succeed_q (s : State) : s.succeed.q = s.q := rfl
@[simp] theorem State.succeed_bright (s : State) : s.succeed.bright = s.bright := rfl
@[simp] theorem State.succeed_segBuf (s : State) : s.succeed.segBuf = s.segBuf := rfl
@[simp] theorem State.succeed_result (s : State) : s.succeed.result = s.result := rfl
@[simp] theorem State.succeed_errCode (s : State) : s.succeed.errCode = .ok := rfl
@[simp] theorem State.succeed_errChar (s : State) : s.succeed.errChar = s.errChar := rfl
@[simp] theorem State.succeed_errPos (s : State) : s.succeed.errPos = s.errPos := rfl
@[simp] theorem State.succeed_tlCfgRed (s : State) : s.succeed.tlCfgRed = s.tlCfgRed := rfl
@[simp] theorem State.succeed_tlCfgAmber (s : State) : s.succeed.tlCfgAmber = s.tlCfgAmber := rfl
@[simp] theorem State.succeed_tlCfgGreen (s : State) : s.succeed.tlCfgGreen = s.tlCfgGreen := rfl
@[simp] theorem State.succeed_tlCbEn (s : State) : s.succeed.tlCbEn = s.tlCbEn := rfl
@[simp] theorem State.succeed_tlRun (s : State) : s.succeed.tlRun = s.tlRun := rfl
@[simp] theorem State.succeed_tlPhase (s : State) : s.succeed.tlPhase = s.tlPhase := rfl
@[simp] theorem State.succeed_tlR (s : State) : s.succeed.tlR = s.tlR := rfl
@[simp] theorem State.succeed_tlA (s : State) : s.succeed.tlA = s.tlA := rfl
@[simp] theorem State.succeed_tlG (s : State) : s.succeed.tlG = s.tlG := rfl
@[simp] theorem State.succeed_tlCnt (s : State) : s.succeed.tlCnt = s.tlCnt := rfl
@[simp] theorem State.succeed_tlBlink (s : State) : s.succeed.tlBlink = s.tlBlink := rfl
@[simp] theorem State.succeed_lampR (s : State) : s.succeed.lampR = s.lampR := rfl
@[simp] theorem State.succeed_lampA (s : State) : s.succeed.lampA = s.lampA := rfl
@[simp] theorem State.succeed_lampG (s : State) : s.succeed.lampG = s.lampG := rfl
@[simp] theorem State.succeed_params (s : State) : s.succeed.params = s.params := rfl
@[simp] theorem State.succeed_port (s : State) : s.succeed.port = s.port := rfl
@[simp] theorem State.succeed_portThread (s : State) : s.succeed.portThread = s.portThread := rfl
@[simp] theorem State.succeed_wireTrace (s : State) : s.succeed.wireTrace = s.wireTrace := rfl
@[simp] theorem State.succeed_phaseTrace (s : State) : s.succeed.phaseTrace = s.phaseTrace := rfl
@[simp] theorem State.succeed_faults (s : State) : s.succeed.faults = s.faults := rfl
@[simp] theorem State.succeed_resetMarks (s : State) : s.succeed.resetMarks = s.resetMarks := rfl
@[simp] theorem State.succeed_turns (s : State) : s.succeed.turns = s.turns := rfl
@[simp] theorem State.succeed_hostProg (s : State) : s.succeed.hostProg = s.hostProg := rfl
@[simp] theorem State.succeed_hostTask (s : State) : s.succeed.hostTask = s.hostTask := rfl
@[simp] theorem State.succeed_hostErrors (s : State) : s.succeed.hostErrors = s.hostErrors := rfl
@[simp] theorem State.succeed_hostReads (s : State) : s.succeed.hostReads = s.hostReads := rfl
@[simp] theorem State.succeed_pinFaults (s : State) : s.succeed.pinFaults = s.pinFaults := rfl
@[simp] theorem State.succeed_stepNo (s : State) : s.succeed.stepNo = s.stepNo := rfl
@[simp] theorem State.succeed_draws (s : State) : s.succeed.draws = s.draws := rfl

/-! ### `enqueue` -/

@[simp] theorem State.enqueue_clkOut (s : State) (es : List PinEvent) : (s.enqueue es).clkOut = s.clkOut := rfl
@[simp] theorem State.enqueue_dioOut (s : State) (es : List PinEvent) : (s.enqueue es).dioOut = s.dioOut := rfl
@[simp] theorem State.enqueue_dioDir (s : State) (es : List PinEvent) : (s.enqueue es).dioDir = s.dioDir := rfl
@[simp] theorem State.enqueue_q (s : State) (es : List PinEvent) : (s.enqueue es).q = s.q ++ es := rfl
@[simp] theorem State.enqueue_bright (s : State) (es : List PinEvent) : (s.enqueue es).bright = s.bright := rfl
@[simp] theorem State.enqueue_segBuf (s : State) (es : List PinEvent) : (s.enqueue es).segBuf = s.segBuf := rfl
@[simp] theorem State.enqueue_result (s : State) (es : List PinEvent) : (s.enqueue es).result = s.result := rfl
@[simp] theorem State.enqueue_errCode (s : State) (es : List PinEvent) : (s.enqueue es).errCode = s.errCode := rfl
@[simp] theorem State.enqueue_errChar (s : State) (es : List PinEvent) : (s.enqueue es).errChar = s.errChar := rfl
@[simp] theorem State.enqueue_errPos (s : State) (es : List PinEvent) : (s.enqueue es).errPos = s.errPos := rfl
@[simp] theorem State.enqueue_tlCfgRed (s : State) (es : List PinEvent) : (s.enqueue es).tlCfgRed = s.tlCfgRed := rfl
@[simp] theorem State.enqueue_tlCfgAmber (s : State) (es : List PinEvent) : (s.enqueue es).tlCfgAmber = s.tlCfgAmber := rfl
@[simp] theorem State.enqueue_tlCfgGreen (s : State) (es : List PinEvent) : (s.enqueue es).tlCfgGreen = s.tlCfgGreen := rfl
@[simp] theorem State.enqueue_tlCbEn (s : State) (es : List PinEvent) : (s.enqueue es).tlCbEn = s.tlCbEn := rfl
@[simp] theorem State.enqueue_tlRun (s : State) (es : List PinEvent) : (s.enqueue es).tlRun = s.tlRun := rfl
@[simp] theorem State.enqueue_tlPhase (s : State) (es : List PinEvent) : (s.enqueue es).tlPhase = s.tlPhase := rfl
@[simp] theorem State.enqueue_tlR (s : State) (es : List PinEvent) : (s.enqueue es).tlR = s.tlR := rfl
@[simp] theorem State.enqueue_tlA (s : State) (es : List PinEvent) : (s.enqueue es).tlA = s.tlA := rfl
@[simp] theorem State.enqueue_tlG (s : State) (es : List PinEvent) : (s.enqueue es).tlG = s.tlG := rfl
@[simp] theorem State.enqueue_tlCnt (s : State) (es : List PinEvent) : (s.enqueue es).tlCnt = s.tlCnt := rfl
@[simp] theorem State.enqueue_tlBlink (s : State) (es : List PinEvent) : (s.enqueue es).tlBlink = s.tlBlink := rfl
@[simp] theorem State.enqueue_lampR (s : State) (es : List PinEvent) : (s.enqueue es).lampR = s.lampR := rfl
@[simp] theorem State.enqueue_lampA (s : State) (es : List PinEvent) : (s.enqueue es).lampA = s.lampA := rfl
@[simp] theorem State.enqueue_lampG (s : State) (es : List PinEvent) : (s.enqueue es).lampG = s.lampG := rfl
@[simp] theorem State.enqueue_params (s : State) (es : List PinEvent) : (s.enqueue es).params = s.params := rfl
@[simp] theorem State.enqueue_port (s : State) (es : List PinEvent) : (s.enqueue es).port = s.port := rfl
@[simp] theorem State.enqueue_portThread (s : State) (es : List PinEvent) : (s.enqueue es).portThread = s.portThread := rfl
@[simp] theorem State.enqueue_wireTrace (s : State) (es : List PinEvent) : (s.enqueue es).wireTrace = s.wireTrace := rfl
@[simp] theorem State.enqueue_phaseTrace (s : State) (es : List PinEvent) : (s.enqueue es).phaseTrace = s.phaseTrace := rfl
@[simp] theorem State.enqueue_faults (s : State) (es : List PinEvent) : (s.enqueue es).faults = s.faults := rfl
@[simp] theorem State.enqueue_resetMarks (s : State) (es : List PinEvent) : (s.enqueue es).resetMarks = s.resetMarks := rfl
@[simp] theorem State.enqueue_turns (s : State) (es : List PinEvent) : (s.enqueue es).turns = s.turns := rfl
@[simp] theorem State.enqueue_hostProg (s : State) (es : List PinEvent) : (s.enqueue es).hostProg = s.hostProg := rfl
@[simp] theorem State.enqueue_hostTask (s : State) (es : List PinEvent) : (s.enqueue es).hostTask = s.hostTask := rfl
@[simp] theorem State.enqueue_hostErrors (s : State) (es : List PinEvent) : (s.enqueue es).hostErrors = s.hostErrors := rfl
@[simp] theorem State.enqueue_hostReads (s : State) (es : List PinEvent) : (s.enqueue es).hostReads = s.hostReads := rfl
@[simp] theorem State.enqueue_pinFaults (s : State) (es : List PinEvent) : (s.enqueue es).pinFaults = s.pinFaults := rfl
@[simp] theorem State.enqueue_stepNo (s : State) (es : List PinEvent) : (s.enqueue es).stepNo = s.stepNo := rfl
@[simp] theorem State.enqueue_draws (s : State) (es : List PinEvent) : (s.enqueue es).draws = s.draws := rfl

/-! ### `takeAnswer` -/

@[simp] theorem State.takeAnswer_clkOut (s : State) : s.takeAnswer.clkOut = s.clkOut := rfl
@[simp] theorem State.takeAnswer_dioOut (s : State) : s.takeAnswer.dioOut = s.dioOut := rfl
@[simp] theorem State.takeAnswer_dioDir (s : State) : s.takeAnswer.dioDir = s.dioDir := rfl
@[simp] theorem State.takeAnswer_q (s : State) : s.takeAnswer.q = s.q := rfl
@[simp] theorem State.takeAnswer_bright (s : State) : s.takeAnswer.bright = s.bright := rfl
@[simp] theorem State.takeAnswer_segBuf (s : State) : s.takeAnswer.segBuf = s.segBuf := rfl
@[simp] theorem State.takeAnswer_result (s : State) : s.takeAnswer.result = s.result := rfl
@[simp] theorem State.takeAnswer_errCode (s : State) : s.takeAnswer.errCode = s.errCode := rfl
@[simp] theorem State.takeAnswer_errChar (s : State) : s.takeAnswer.errChar = s.errChar := rfl
@[simp] theorem State.takeAnswer_errPos (s : State) : s.takeAnswer.errPos = s.errPos := rfl
@[simp] theorem State.takeAnswer_tlCfgRed (s : State) : s.takeAnswer.tlCfgRed = s.tlCfgRed := rfl
@[simp] theorem State.takeAnswer_tlCfgAmber (s : State) : s.takeAnswer.tlCfgAmber = s.tlCfgAmber := rfl
@[simp] theorem State.takeAnswer_tlCfgGreen (s : State) : s.takeAnswer.tlCfgGreen = s.tlCfgGreen := rfl
@[simp] theorem State.takeAnswer_tlCbEn (s : State) : s.takeAnswer.tlCbEn = s.tlCbEn := rfl
@[simp] theorem State.takeAnswer_tlRun (s : State) : s.takeAnswer.tlRun = s.tlRun := rfl
@[simp] theorem State.takeAnswer_tlPhase (s : State) : s.takeAnswer.tlPhase = s.tlPhase := rfl
@[simp] theorem State.takeAnswer_tlR (s : State) : s.takeAnswer.tlR = s.tlR := rfl
@[simp] theorem State.takeAnswer_tlA (s : State) : s.takeAnswer.tlA = s.tlA := rfl
@[simp] theorem State.takeAnswer_tlG (s : State) : s.takeAnswer.tlG = s.tlG := rfl
@[simp] theorem State.takeAnswer_tlCnt (s : State) : s.takeAnswer.tlCnt = s.tlCnt := rfl
@[simp] theorem State.takeAnswer_tlBlink (s : State) : s.takeAnswer.tlBlink = s.tlBlink := rfl
@[simp] theorem State.takeAnswer_lampR (s : State) : s.takeAnswer.lampR = s.lampR := rfl
@[simp] theorem State.takeAnswer_lampA (s : State) : s.takeAnswer.lampA = s.lampA := rfl
@[simp] theorem State.takeAnswer_lampG (s : State) : s.takeAnswer.lampG = s.lampG := rfl
@[simp] theorem State.takeAnswer_params (s : State) : s.takeAnswer.params = s.params := rfl
@[simp] theorem State.takeAnswer_port (s : State) : s.takeAnswer.port = s.port := rfl
@[simp] theorem State.takeAnswer_portThread (s : State) : s.takeAnswer.portThread = s.portThread := rfl
@[simp] theorem State.takeAnswer_wireTrace (s : State) : s.takeAnswer.wireTrace = s.wireTrace := rfl
@[simp] theorem State.takeAnswer_phaseTrace (s : State) : s.takeAnswer.phaseTrace = s.phaseTrace := rfl
@[simp] theorem State.takeAnswer_faults (s : State) : s.takeAnswer.faults = s.faults := rfl
@[simp] theorem State.takeAnswer_resetMarks (s : State) : s.takeAnswer.resetMarks = s.resetMarks := rfl
@[simp] theorem State.takeAnswer_turns (s : State) : s.takeAnswer.turns = s.turns := rfl
@[simp] theorem State.takeAnswer_hostProg (s : State) : s.takeAnswer.hostProg = s.hostProg := rfl
@[simp] theorem State.takeAnswer_hostTask (s : State) : s.takeAnswer.hostTask = s.hostTask := rfl
@[simp] theorem State.takeAnswer_hostErrors (s : State) : s.takeAnswer.hostErrors = s.hostErrors := rfl
@[simp] theorem State.takeAnswer_hostReads (s : State) : s.takeAnswer.hostReads = s.hostReads := rfl
@[simp] theorem State.takeAnswer_pinFaults (s : State) : s.takeAnswer.pinFaults = s.pinFaults.tail := rfl
@[simp] theorem State.takeAnswer_stepNo (s : State) : s.takeAnswer.stepNo = s.stepNo := rfl
@[simp] theorem State.takeAnswer_draws (s : State) : s.takeAnswer.draws = s.draws := rfl

/-! ### `reportPinFailure` -/

@[simp] theorem State.reportPinFailure_clkOut (s : State) (f : PinFailure) : (s.reportPinFailure f).clkOut = s.clkOut := rfl
@[simp] theorem State.reportPinFailure_dioOut (s : State) (f : PinFailure) : (s.reportPinFailure f).dioOut = s.dioOut := rfl
@[simp] theorem State.reportPinFailure_dioDir (s : State) (f : PinFailure) : (s.reportPinFailure f).dioDir = s.dioDir := rfl
@[simp] theorem State.reportPinFailure_q (s : State) (f : PinFailure) : (s.reportPinFailure f).q = s.q := rfl
@[simp] theorem State.reportPinFailure_bright (s : State) (f : PinFailure) : (s.reportPinFailure f).bright = s.bright := rfl
@[simp] theorem State.reportPinFailure_segBuf (s : State) (f : PinFailure) : (s.reportPinFailure f).segBuf = s.segBuf := rfl
@[simp] theorem State.reportPinFailure_result (s : State) (f : PinFailure) : (s.reportPinFailure f).result = s.result := rfl
@[simp] theorem State.reportPinFailure_errCode (s : State) (f : PinFailure) : (s.reportPinFailure f).errCode = .pinFailure := rfl
@[simp] theorem State.reportPinFailure_errChar (s : State) (f : PinFailure) : (s.reportPinFailure f).errChar = s.errChar := rfl
@[simp] theorem State.reportPinFailure_errPos (s : State) (f : PinFailure) : (s.reportPinFailure f).errPos = s.errPos := rfl
@[simp] theorem State.reportPinFailure_tlCfgRed (s : State) (f : PinFailure) : (s.reportPinFailure f).tlCfgRed = s.tlCfgRed := rfl
@[simp] theorem State.reportPinFailure_tlCfgAmber (s : State) (f : PinFailure) : (s.reportPinFailure f).tlCfgAmber = s.tlCfgAmber := rfl
@[simp] theorem State.reportPinFailure_tlCfgGreen (s : State) (f : PinFailure) : (s.reportPinFailure f).tlCfgGreen = s.tlCfgGreen := rfl
@[simp] theorem State.reportPinFailure_tlCbEn (s : State) (f : PinFailure) : (s.reportPinFailure f).tlCbEn = s.tlCbEn := rfl
@[simp] theorem State.reportPinFailure_tlRun (s : State) (f : PinFailure) : (s.reportPinFailure f).tlRun = s.tlRun := rfl
@[simp] theorem State.reportPinFailure_tlPhase (s : State) (f : PinFailure) : (s.reportPinFailure f).tlPhase = s.tlPhase := rfl
@[simp] theorem State.reportPinFailure_tlR (s : State) (f : PinFailure) : (s.reportPinFailure f).tlR = s.tlR := rfl
@[simp] theorem State.reportPinFailure_tlA (s : State) (f : PinFailure) : (s.reportPinFailure f).tlA = s.tlA := rfl
@[simp] theorem State.reportPinFailure_tlG (s : State) (f : PinFailure) : (s.reportPinFailure f).tlG = s.tlG := rfl
@[simp] theorem State.reportPinFailure_tlCnt (s : State) (f : PinFailure) : (s.reportPinFailure f).tlCnt = s.tlCnt := rfl
@[simp] theorem State.reportPinFailure_tlBlink (s : State) (f : PinFailure) : (s.reportPinFailure f).tlBlink = s.tlBlink := rfl
@[simp] theorem State.reportPinFailure_lampR (s : State) (f : PinFailure) : (s.reportPinFailure f).lampR = s.lampR := rfl
@[simp] theorem State.reportPinFailure_lampA (s : State) (f : PinFailure) : (s.reportPinFailure f).lampA = s.lampA := rfl
@[simp] theorem State.reportPinFailure_lampG (s : State) (f : PinFailure) : (s.reportPinFailure f).lampG = s.lampG := rfl
@[simp] theorem State.reportPinFailure_params (s : State) (f : PinFailure) : (s.reportPinFailure f).params = s.params := rfl
@[simp] theorem State.reportPinFailure_port (s : State) (f : PinFailure) : (s.reportPinFailure f).port = s.port := rfl
@[simp] theorem State.reportPinFailure_portThread (s : State) (f : PinFailure) : (s.reportPinFailure f).portThread = s.portThread := rfl
@[simp] theorem State.reportPinFailure_wireTrace (s : State) (f : PinFailure) : (s.reportPinFailure f).wireTrace = s.wireTrace := rfl
@[simp] theorem State.reportPinFailure_phaseTrace (s : State) (f : PinFailure) : (s.reportPinFailure f).phaseTrace = s.phaseTrace := rfl
@[simp] theorem State.reportPinFailure_faults (s : State) (f : PinFailure) : (s.reportPinFailure f).faults = s.faults ++ [f] := rfl
@[simp] theorem State.reportPinFailure_resetMarks (s : State) (f : PinFailure) : (s.reportPinFailure f).resetMarks = s.resetMarks := rfl
@[simp] theorem State.reportPinFailure_turns (s : State) (f : PinFailure) : (s.reportPinFailure f).turns = s.turns := rfl
@[simp] theorem State.reportPinFailure_hostProg (s : State) (f : PinFailure) : (s.reportPinFailure f).hostProg = s.hostProg := rfl
@[simp] theorem State.reportPinFailure_hostTask (s : State) (f : PinFailure) : (s.reportPinFailure f).hostTask = s.hostTask := rfl
@[simp] theorem State.reportPinFailure_hostErrors (s : State) (f : PinFailure) : (s.reportPinFailure f).hostErrors = s.hostErrors := rfl
@[simp] theorem State.reportPinFailure_hostReads (s : State) (f : PinFailure) : (s.reportPinFailure f).hostReads = s.hostReads := rfl
@[simp] theorem State.reportPinFailure_pinFaults (s : State) (f : PinFailure) : (s.reportPinFailure f).pinFaults = s.pinFaults := rfl
@[simp] theorem State.reportPinFailure_stepNo (s : State) (f : PinFailure) : (s.reportPinFailure f).stepNo = s.stepNo := rfl
@[simp] theorem State.reportPinFailure_draws (s : State) (f : PinFailure) : (s.reportPinFailure f).draws = s.draws + 1 := rfl

/-! ### `setPins` -/

@[simp] theorem State.setPins_clkOut (s : State) (p : Pins) : (s.setPins p).clkOut = p.clk := rfl
@[simp] theorem State.setPins_dioOut (s : State) (p : Pins) : (s.setPins p).dioOut = p.dio := rfl
@[simp] theorem State.setPins_dioDir (s : State) (p : Pins) : (s.setPins p).dioDir = p.dir := rfl
@[simp] theorem State.setPins_q (s : State) (p : Pins) : (s.setPins p).q = s.q := rfl
@[simp] theorem State.setPins_bright (s : State) (p : Pins) : (s.setPins p).bright = s.bright := rfl
@[simp] theorem State.setPins_segBuf (s : State) (p : Pins) : (s.setPins p).segBuf = s.segBuf := rfl
@[simp] theorem State.setPins_result (s : State) (p : Pins) : (s.setPins p).result = s.result := rfl
@[simp] theorem State.setPins_errCode (s : State) (p : Pins) : (s.setPins p).errCode = s.errCode := rfl
@[simp] theorem State.setPins_errChar (s : State) (p : Pins) : (s.setPins p).errChar = s.errChar := rfl
@[simp] theorem State.setPins_errPos (s : State) (p : Pins) : (s.setPins p).errPos = s.errPos := rfl
@[simp] theorem State.setPins_tlCfgRed (s : State) (p : Pins) : (s.setPins p).tlCfgRed = s.tlCfgRed := rfl
@[simp] theorem State.setPins_tlCfgAmber (s : State) (p : Pins) : (s.setPins p).tlCfgAmber = s.tlCfgAmber := rfl
@[simp] theorem State.setPins_tlCfgGreen (s : State) (p : Pins) : (s.setPins p).tlCfgGreen = s.tlCfgGreen := rfl
@[simp] theorem State.setPins_tlCbEn (s : State) (p : Pins) : (s.setPins p).tlCbEn = s.tlCbEn := rfl
@[simp] theorem State.setPins_tlRun (s : State) (p : Pins) : (s.setPins p).tlRun = s.tlRun := rfl
@[simp] theorem State.setPins_tlPhase (s : State) (p : Pins) : (s.setPins p).tlPhase = s.tlPhase := rfl
@[simp] theorem State.setPins_tlR (s : State) (p : Pins) : (s.setPins p).tlR = s.tlR := rfl
@[simp] theorem State.setPins_tlA (s : State) (p : Pins) : (s.setPins p).tlA = s.tlA := rfl
@[simp] theorem State.setPins_tlG (s : State) (p : Pins) : (s.setPins p).tlG = s.tlG := rfl
@[simp] theorem State.setPins_tlCnt (s : State) (p : Pins) : (s.setPins p).tlCnt = s.tlCnt := rfl
@[simp] theorem State.setPins_tlBlink (s : State) (p : Pins) : (s.setPins p).tlBlink = s.tlBlink := rfl
@[simp] theorem State.setPins_lampR (s : State) (p : Pins) : (s.setPins p).lampR = s.lampR := rfl
@[simp] theorem State.setPins_lampA (s : State) (p : Pins) : (s.setPins p).lampA = s.lampA := rfl
@[simp] theorem State.setPins_lampG (s : State) (p : Pins) : (s.setPins p).lampG = s.lampG := rfl
@[simp] theorem State.setPins_params (s : State) (p : Pins) : (s.setPins p).params = s.params := rfl
@[simp] theorem State.setPins_port (s : State) (p : Pins) : (s.setPins p).port = s.port := rfl
@[simp] theorem State.setPins_portThread (s : State) (p : Pins) : (s.setPins p).portThread = s.portThread := rfl
@[simp] theorem State.setPins_wireTrace (s : State) (p : Pins) : (s.setPins p).wireTrace = s.wireTrace := rfl
@[simp] theorem State.setPins_phaseTrace (s : State) (p : Pins) : (s.setPins p).phaseTrace = s.phaseTrace := rfl
@[simp] theorem State.setPins_faults (s : State) (p : Pins) : (s.setPins p).faults = s.faults := rfl
@[simp] theorem State.setPins_resetMarks (s : State) (p : Pins) : (s.setPins p).resetMarks = s.resetMarks := rfl
@[simp] theorem State.setPins_turns (s : State) (p : Pins) : (s.setPins p).turns = s.turns := rfl
@[simp] theorem State.setPins_hostProg (s : State) (p : Pins) : (s.setPins p).hostProg = s.hostProg := rfl
@[simp] theorem State.setPins_hostTask (s : State) (p : Pins) : (s.setPins p).hostTask = s.hostTask := rfl
@[simp] theorem State.setPins_hostErrors (s : State) (p : Pins) : (s.setPins p).hostErrors = s.hostErrors := rfl
@[simp] theorem State.setPins_hostReads (s : State) (p : Pins) : (s.setPins p).hostReads = s.hostReads := rfl
@[simp] theorem State.setPins_pinFaults (s : State) (p : Pins) : (s.setPins p).pinFaults = s.pinFaults := rfl
@[simp] theorem State.setPins_stepNo (s : State) (p : Pins) : (s.setPins p).stepNo = s.stepNo := rfl
@[simp] theorem State.setPins_draws (s : State) (p : Pins) : (s.setPins p).draws = s.draws := rfl

/-! ### `setLamp` -/

@[simp] theorem State.setLamp_clkOut (s : State) (l : Lamp) (b : Bit) : (s.setLamp l b).clkOut = s.clkOut := by cases l <;> rfl
@[simp] theorem State.setLamp_dioOut (s : State) (l : Lamp) (b : Bit) : (s.setLamp l b).dioOut = s.dioOut := by cases l <;> rfl
@[simp] theorem State.setLamp_dioDir (s : State) (l : Lamp) (b : Bit) : (s.setLamp l b).dioDir = s.dioDir := by cases l <;> rfl
@[simp] theorem State.setLamp_q (s : State) (l : Lamp) (b : Bit) : (s.setLamp l b).q = s.q := by cases l <;> rfl
@[simp] theorem State.setLamp_bright (s : State) (l : Lamp) (b : Bit) : (s.setLamp l b).bright = s.bright := by cases l <;> rfl
@[simp] theorem State.setLamp_segBuf (s : State) (l : Lamp) (b : Bit) : (s.setLamp l b).segBuf = s.segBuf := by cases l <;> rfl
@[simp] theorem State.setLamp_result (s : State) (l : Lamp) (b : Bit) : (s.setLamp l b).result = s.result := by cases l <;> rfl
@[simp] theorem State.setLamp_errCode (s : State) (l : Lamp) (b : Bit) : (s.setLamp l b).errCode = s.errCode := by cases l <;> rfl
@[simp] theorem State.setLamp_errChar (s : State) (l : Lamp) (b : Bit) : (s.setLamp l b).errChar = s.errChar := by cases l <;> rfl
@[simp] theorem State.setLamp_errPos (s : State) (l : Lamp) (b : Bit) : (s.setLamp l b).errPos = s.errPos := by cases l <;> rfl
@[simp] theorem State.setLamp_tlCfgRed (s : State) (l : Lamp) (b : Bit) : (s.setLamp l b).tlCfgRed = s.tlCfgRed := by cases l <;> rfl
@[simp] theorem State.setLamp_tlCfgAmber (s : State) (l : Lamp) (b : Bit) : (s.setLamp l b).tlCfgAmber = s.tlCfgAmber := by cases l <;> rfl
@[simp] theorem State.setLamp_tlCfgGreen (s : State) (l : Lamp) (b : Bit) : (s.setLamp l b).tlCfgGreen = s.tlCfgGreen := by cases l <;> rfl
@[simp] theorem State.setLamp_tlCbEn (s : State) (l : Lamp) (b : Bit) : (s.setLamp l b).tlCbEn = s.tlCbEn := by cases l <;> rfl
@[simp] theorem State.setLamp_tlRun (s : State) (l : Lamp) (b : Bit) : (s.setLamp l b).tlRun = s.tlRun := by cases l <;> rfl
@[simp] theorem State.setLamp_tlPhase (s : State) (l : Lamp) (b : Bit) : (s.setLamp l b).tlPhase = s.tlPhase := by cases l <;> rfl
@[simp] theorem State.setLamp_tlR (s : State) (l : Lamp) (b : Bit) : (s.setLamp l b).tlR = s.tlR := by cases l <;> rfl
@[simp] theorem State.setLamp_tlA (s : State) (l : Lamp) (b : Bit) : (s.setLamp l b).tlA = s.tlA := by cases l <;> rfl
@[simp] theorem State.setLamp_tlG (s : State) (l : Lamp) (b : Bit) : (s.setLamp l b).tlG = s.tlG := by cases l <;> rfl
@[simp] theorem State.setLamp_tlCnt (s : State) (l : Lamp) (b : Bit) : (s.setLamp l b).tlCnt = s.tlCnt := by cases l <;> rfl
@[simp] theorem State.setLamp_tlBlink (s : State) (l : Lamp) (b : Bit) : (s.setLamp l b).tlBlink = s.tlBlink := by cases l <;> rfl
@[simp] theorem State.setLamp_lampR (s : State) (l : Lamp) (b : Bit) : (s.setLamp l b).lampR = if l = .red then b else s.lampR := by cases l <;> rfl
@[simp] theorem State.setLamp_lampA (s : State) (l : Lamp) (b : Bit) : (s.setLamp l b).lampA = if l = .amber then b else s.lampA := by cases l <;> rfl
@[simp] theorem State.setLamp_lampG (s : State) (l : Lamp) (b : Bit) : (s.setLamp l b).lampG = if l = .green then b else s.lampG := by cases l <;> rfl
@[simp] theorem State.setLamp_params (s : State) (l : Lamp) (b : Bit) : (s.setLamp l b).params = s.params := by cases l <;> rfl
@[simp] theorem State.setLamp_port (s : State) (l : Lamp) (b : Bit) : (s.setLamp l b).port = s.port := by cases l <;> rfl
@[simp] theorem State.setLamp_portThread (s : State) (l : Lamp) (b : Bit) : (s.setLamp l b).portThread = s.portThread := by cases l <;> rfl
@[simp] theorem State.setLamp_wireTrace (s : State) (l : Lamp) (b : Bit) : (s.setLamp l b).wireTrace = s.wireTrace := by cases l <;> rfl
@[simp] theorem State.setLamp_phaseTrace (s : State) (l : Lamp) (b : Bit) : (s.setLamp l b).phaseTrace = s.phaseTrace := by cases l <;> rfl
@[simp] theorem State.setLamp_faults (s : State) (l : Lamp) (b : Bit) : (s.setLamp l b).faults = s.faults := by cases l <;> rfl
@[simp] theorem State.setLamp_resetMarks (s : State) (l : Lamp) (b : Bit) : (s.setLamp l b).resetMarks = s.resetMarks := by cases l <;> rfl
@[simp] theorem State.setLamp_turns (s : State) (l : Lamp) (b : Bit) : (s.setLamp l b).turns = s.turns := by cases l <;> rfl
@[simp] theorem State.setLamp_hostProg (s : State) (l : Lamp) (b : Bit) : (s.setLamp l b).hostProg = s.hostProg := by cases l <;> rfl
@[simp] theorem State.setLamp_hostTask (s : State) (l : Lamp) (b : Bit) : (s.setLamp l b).hostTask = s.hostTask := by cases l <;> rfl
@[simp] theorem State.setLamp_hostErrors (s : State) (l : Lamp) (b : Bit) : (s.setLamp l b).hostErrors = s.hostErrors := by cases l <;> rfl
@[simp] theorem State.setLamp_hostReads (s : State) (l : Lamp) (b : Bit) : (s.setLamp l b).hostReads = s.hostReads := by cases l <;> rfl
@[simp] theorem State.setLamp_pinFaults (s : State) (l : Lamp) (b : Bit) : (s.setLamp l b).pinFaults = s.pinFaults := by cases l <;> rfl
@[simp] theorem State.setLamp_stepNo (s : State) (l : Lamp) (b : Bit) : (s.setLamp l b).stepNo = s.stepNo := by cases l <;> rfl
@[simp] theorem State.setLamp_draws (s : State) (l : Lamp) (b : Bit) : (s.setLamp l b).draws = s.draws := by cases l <;> rfl

/-! ### `latchDurations` -/

@[simp] theorem State.latchDurations_clkOut (s : State) : s.latchDurations.clkOut = s.clkOut := rfl
@[simp] theorem State.latchDurations_dioOut (s : State) : s.latchDurations.dioOut = s.dioOut := rfl
@[simp] theorem State.latchDurations_dioDir (s : State) : s.latchDurations.dioDir = s.dioDir := rfl
@[simp] theorem State.latchDurations_q (s : State) : s.latchDurations.q = s.q := rfl
@[simp] theorem State.latchDurations_bright (s : State) : s.latchDurations.bright = s.bright := rfl
@[simp] theorem State.latchDurations_segBuf (s : State) : s.latchDurations.segBuf = s.segBuf := rfl
@[simp] theorem State.latchDurations_result (s : State) : s.latchDurations.result = s.result := rfl
@[simp] theorem State.latchDurations_errCode (s : State) : s.latchDurations.errCode = s.errCode := rfl
@[simp] theorem State.latchDurations_errChar (s : State) : s.latchDurations.errChar = s.errChar := rfl
@[simp] theorem State.latchDurations_errPos (s : State) : s.latchDurations.errPos = s.errPos := rfl
@[simp] theorem State.latchDurations_tlCfgRed (s : State) : s.latchDurations.tlCfgRed = s.tlCfgRed := rfl
@[simp] theorem State.latchDurations_tlCfgAmber (s : State) : s.latchDurations.tlCfgAmber = s.tlCfgAmber := rfl
@[simp] theorem State.latchDurations_tlCfgGreen (s : State) : s.latchDurations.tlCfgGreen = s.tlCfgGreen := rfl
@[simp] theorem State.latchDurations_tlCbEn (s : State) : s.latchDurations.tlCbEn = s.tlCbEn := rfl
@[simp] theorem State.latchDurations_tlRun (s : State) : s.latchDurations.tlRun = 1#1 := rfl
@[simp] theorem State.latchDurations_tlPhase (s : State) : s.latchDurations.tlPhase = s.tlPhase := rfl
@[simp] theorem State.latchDurations_tlR (s : State) : s.latchDurations.tlR = s.tlCfgRed := rfl
@[simp] theorem State.latchDurations_tlA (s : State) : s.latchDurations.tlA = s.tlCfgAmber := rfl
@[simp] theorem State.latchDurations_tlG (s : State) : s.latchDurations.tlG = s.tlCfgGreen := rfl
@[simp] theorem State.latchDurations_tlCnt (s : State) : s.latchDurations.tlCnt = s.tlCnt := rfl
@[simp] theorem State.latchDurations_tlBlink (s : State) : s.latchDurations.tlBlink = 0#3 := rfl
@[simp] theorem State.latchDurations_lampR (s : State) : s.latchDurations.lampR = s.lampR := rfl
@[simp] theorem State.latchDurations_lampA (s : State) : s.latchDurations.lampA = s.lampA := rfl
@[simp] theorem State.latchDurations_lampG (s : State) : s.latchDurations.lampG = s.lampG := rfl
@[simp] theorem State.latchDurations_params (s : State) : s.latchDurations.params = s.params := rfl
@[simp] theorem State.latchDurations_port (s : State) : s.latchDurations.port = s.port := rfl
@[simp] theorem State.latchDurations_portThread (s : State) : s.latchDurations.portThread = s.portThread := rfl
@[simp] theorem State.latchDurations_wireTrace (s : State) : s.latchDurations.wireTrace = s.wireTrace := rfl
@[simp] theorem State.latchDurations_phaseTrace (s : State) : s.latchDurations.phaseTrace = s.phaseTrace := rfl
@[simp] theorem State.latchDurations_faults (s : State) : s.latchDurations.faults = s.faults := rfl
@[simp] theorem State.latchDurations_resetMarks (s : State) : s.latchDurations.resetMarks = s.resetMarks := rfl
@[simp] theorem State.latchDurations_turns (s : State) : s.latchDurations.turns = s.turns := rfl
@[simp] theorem State.latchDurations_hostProg (s : State) : s.latchDurations.hostProg = s.hostProg := rfl
@[simp] theorem State.latchDurations_hostTask (s : State) : s.latchDurations.hostTask = s.hostTask := rfl
@[simp] theorem State.latchDurations_hostErrors (s : State) : s.latchDurations.hostErrors = s.hostErrors := rfl
@[simp] theorem State.latchDurations_hostReads (s : State) : s.latchDurations.hostReads = s.hostReads := rfl
@[simp] theorem State.latchDurations_pinFaults (s : State) : s.latchDurations.pinFaults = s.pinFaults := rfl
@[simp] theorem State.latchDurations_stepNo (s : State) : s.latchDurations.stepNo = s.stepNo := rfl
@[simp] theorem State.latchDurations_draws (s : State) : s.latchDurations.draws = s.draws := rfl

/-! ### `raise` -/

@[simp] theorem State.raise_clkOut (s : State) (e : CommandError) : (s.raise e).clkOut = s.clkOut := by cases e <;> rfl
@[simp] theorem State.raise_dioOut (s : State) (e : CommandError) : (s.raise e).dioOut = s.dioOut := by cases e <;> rfl
@[simp] theorem State.raise_dioDir (s : State) (e : CommandError) : (s.raise e).dioDir = s.dioDir := by cases e <;> rfl
@[simp] theorem State.raise_q (s : State) (e : CommandError) : (s.raise e).q = s.q := by cases e <;> rfl
@[simp] theorem State.raise_bright (s : State) (e : CommandError) : (s.raise e).bright = s.bright := by cases e <;> rfl
@[simp] theorem State.raise_segBuf (s : State) (e : CommandError) : (s.raise e).segBuf = s.segBuf := by cases e <;> rfl
@[simp] theorem State.raise_result (s : State) (e : CommandError) : (s.raise e).result = s.result := by cases e <;> rfl
@[simp] theorem State.raise_tlCfgRed (s : State) (e : CommandError) : (s.raise e).tlCfgRed = s.tlCfgRed := by cases e <;> rfl
@[simp] theorem State.raise_tlCfgAmber (s : State) (e : CommandError) : (s.raise e).tlCfgAmber = s.tlCfgAmber := by cases e <;> rfl
@[simp] theorem State.raise_tlCfgGreen (s : State) (e : CommandError) : (s.raise e).tlCfgGreen = s.tlCfgGreen := by cases e <;> rfl
@[simp] theorem State.raise_tlCbEn (s : State) (e : CommandError) : (s.raise e).tlCbEn = s.tlCbEn := by cases e <;> rfl
@[simp] theorem State.raise_tlRun (s : State) (e : CommandError) : (s.raise e).tlRun = s.tlRun := by cases e <;> rfl
@[simp] theorem State.raise_tlPhase (s : State) (e : CommandError) : (s.raise e).tlPhase = s.tlPhase := by cases e <;> rfl
@[simp] theorem State.raise_tlR (s : State) (e : CommandError) : (s.raise e).tlR = s.tlR := by cases e <;> rfl
@[simp] theorem State.raise_tlA (s : State) (e : CommandError) : (s.raise e).tlA = s.tlA := by cases e <;> rfl
@[simp] theorem State.raise_tlG (s : State) (e : CommandError) : (s.raise e).tlG = s.tlG := by cases e <;> rfl
@[simp] theorem State.raise_tlCnt (s : State) (e : CommandError) : (s.raise e).tlCnt = s.tlCnt := by cases e <;> rfl
@[simp] theorem State.raise_tlBlink (s : State) (e : CommandError) : (s.raise e).tlBlink = s.tlBlink := by cases e <;> rfl
@[simp] theorem State.raise_lampR (s : State) (e : CommandError) : (s.raise e).lampR = s.lampR := by cases e <;> rfl
@[simp] theorem State.raise_lampA (s : State) (e : CommandError) : (s.raise e).lampA = s.lampA := by cases e <;> rfl
@[simp] theorem State.raise_lampG (s : State) (e : CommandError) : (s.raise e).lampG = s.lampG := by cases e <;> rfl
@[simp] theorem State.raise_params (s : State) (e : CommandError) : (s.raise e).params = s.params := by cases e <;> rfl
@[simp] theorem State.raise_port (s : State) (e : CommandError) : (s.raise e).port = s.port := by cases e <;> rfl
@[simp] theorem State.raise_portThread (s : State) (e : CommandError) : (s.raise e).portThread = s.portThread := by cases e <;> rfl
@[simp] theorem State.raise_wireTrace (s : State) (e : CommandError) : (s.raise e).wireTrace = s.wireTrace := by cases e <;> rfl
@[simp] theorem State.raise_phaseTrace (s : State) (e : CommandError) : (s.raise e).phaseTrace = s.phaseTrace := by cases e <;> rfl
@[simp] theorem State.raise_faults (s : State) (e : CommandError) : (s.raise e).faults = s.faults := by cases e <;> rfl
@[simp] theorem State.raise_resetMarks (s : State) (e : CommandError) : (s.raise e).resetMarks = s.resetMarks := by cases e <;> rfl
@[simp] theorem State.raise_turns (s : State) (e : CommandError) : (s.raise e).turns = s.turns := by cases e <;> rfl
@[simp] theorem State.raise_hostProg (s : State) (e : CommandError) : (s.raise e).hostProg = s.hostProg := by cases e <;> rfl
@[simp] theorem State.raise_hostTask (s : State) (e : CommandError) : (s.raise e).hostTask = s.hostTask := by cases e <;> rfl
@[simp] theorem State.raise_hostErrors (s : State) (e : CommandError) : (s.raise e).hostErrors = s.hostErrors := by cases e <;> rfl
@[simp] theorem State.raise_hostReads (s : State) (e : CommandError) : (s.raise e).hostReads = s.hostReads := by cases e <;> rfl
@[simp] theorem State.raise_pinFaults (s : State) (e : CommandError) : (s.raise e).pinFaults = s.pinFaults := by cases e <;> rfl
@[simp] theorem State.raise_stepNo (s : State) (e : CommandError) : (s.raise e).stepNo = s.stepNo := by cases e <;> rfl
@[simp] theorem State.raise_draws (s : State) (e : CommandError) : (s.raise e).draws = s.draws := by cases e <;> rfl

/-! ### `notify` -/

@[simp] theorem State.notify_clkOut (s : State) (p : Phase) (d : Byte) : (s.notify p d).clkOut = s.clkOut := by unfold State.notify; split <;> rfl
@[simp] theorem State.notify_dioOut (s : State) (p : Phase) (d : Byte) : (s.notify p d).dioOut = s.dioOut := by unfold State.notify; split <;> rfl
@[simp] theorem State.notify_dioDir (s : State) (p : Phase) (d : Byte) : (s.notify p d).dioDir = s.dioDir := by unfold State.notify; split <;> rfl
@[simp] theorem State.notify_q (s : State) (p : Phase) (d : Byte) : (s.notify p d).q = s.q := by unfold State.notify; split <;> rfl
@[simp] theorem State.notify_bright (s : State) (p : Phase) (d : Byte) : (s.notify p d).bright = s.bright := by unfold State.notify; split <;> rfl
@[simp] theorem State.notify_segBuf (s : State) (p : Phase) (d : Byte) : (s.notify p d).segBuf = s.segBuf := by unfold State.notify; split <;> rfl
@[simp] theorem State.notify_result (s : State) (p : Phase) (d : Byte) : (s.notify p d).result = s.result := by unfold State.notify; split <;> rfl
@[simp] theorem State.notify_errCode (s : State) (p : Phase) (d : Byte) : (s.notify p d).errCode = s.errCode := by unfold State.notify; split <;> rfl
@[simp] theorem State.notify_errChar (s : State) (p : Phase) (d : Byte) : (s.notify p d).errChar = s.errChar := by unfold State.notify; split <;> rfl
@[simp] theorem State.notify_errPos (s : State) (p : Phase) (d : Byte) : (s.notify p d).errPos = s.errPos := by unfold State.notify; split <;> rfl
@[simp] theorem State.notify_tlCfgRed (s : State) (p : Phase) (d : Byte) : (s.notify p d).tlCfgRed = s.tlCfgRed := by unfold State.notify; split <;> rfl
@[simp] theorem State.notify_tlCfgAmber (s : State) (p : Phase) (d : Byte) : (s.notify p d).tlCfgAmber = s.tlCfgAmber := by unfold State.notify; split <;> rfl
@[simp] theorem State.notify_tlCfgGreen (s : State) (p : Phase) (d : Byte) : (s.notify p d).tlCfgGreen = s.tlCfgGreen := by unfold State.notify; split <;> rfl
@[simp] theorem State.notify_tlCbEn (s : State) (p : Phase) (d : Byte) : (s.notify p d).tlCbEn = s.tlCbEn := by unfold State.notify; split <;> rfl
@[simp] theorem State.notify_tlRun (s : State) (p : Phase) (d : Byte) : (s.notify p d).tlRun = s.tlRun := by unfold State.notify; split <;> rfl
@[simp] theorem State.notify_tlPhase (s : State) (p : Phase) (d : Byte) : (s.notify p d).tlPhase = s.tlPhase := by unfold State.notify; split <;> rfl
@[simp] theorem State.notify_tlR (s : State) (p : Phase) (d : Byte) : (s.notify p d).tlR = s.tlR := by unfold State.notify; split <;> rfl
@[simp] theorem State.notify_tlA (s : State) (p : Phase) (d : Byte) : (s.notify p d).tlA = s.tlA := by unfold State.notify; split <;> rfl
@[simp] theorem State.notify_tlG (s : State) (p : Phase) (d : Byte) : (s.notify p d).tlG = s.tlG := by unfold State.notify; split <;> rfl
@[simp] theorem State.notify_tlCnt (s : State) (p : Phase) (d : Byte) : (s.notify p d).tlCnt = s.tlCnt := by unfold State.notify; split <;> rfl
@[simp] theorem State.notify_tlBlink (s : State) (p : Phase) (d : Byte) : (s.notify p d).tlBlink = s.tlBlink := by unfold State.notify; split <;> rfl
@[simp] theorem State.notify_lampR (s : State) (p : Phase) (d : Byte) : (s.notify p d).lampR = s.lampR := by unfold State.notify; split <;> rfl
@[simp] theorem State.notify_lampA (s : State) (p : Phase) (d : Byte) : (s.notify p d).lampA = s.lampA := by unfold State.notify; split <;> rfl
@[simp] theorem State.notify_lampG (s : State) (p : Phase) (d : Byte) : (s.notify p d).lampG = s.lampG := by unfold State.notify; split <;> rfl
@[simp] theorem State.notify_params (s : State) (p : Phase) (d : Byte) : (s.notify p d).params = s.params := by unfold State.notify; split <;> rfl
@[simp] theorem State.notify_port (s : State) (p : Phase) (d : Byte) : (s.notify p d).port = s.port := by unfold State.notify; split <;> rfl
@[simp] theorem State.notify_portThread (s : State) (p : Phase) (d : Byte) : (s.notify p d).portThread = s.portThread := by unfold State.notify; split <;> rfl
@[simp] theorem State.notify_wireTrace (s : State) (p : Phase) (d : Byte) : (s.notify p d).wireTrace = s.wireTrace := by unfold State.notify; split <;> rfl
@[simp] theorem State.notify_faults (s : State) (p : Phase) (d : Byte) : (s.notify p d).faults = s.faults := by unfold State.notify; split <;> rfl
@[simp] theorem State.notify_resetMarks (s : State) (p : Phase) (d : Byte) : (s.notify p d).resetMarks = s.resetMarks := by unfold State.notify; split <;> rfl
@[simp] theorem State.notify_turns (s : State) (p : Phase) (d : Byte) : (s.notify p d).turns = s.turns := by unfold State.notify; split <;> rfl
@[simp] theorem State.notify_hostProg (s : State) (p : Phase) (d : Byte) : (s.notify p d).hostProg = s.hostProg := by unfold State.notify; split <;> rfl
@[simp] theorem State.notify_hostTask (s : State) (p : Phase) (d : Byte) : (s.notify p d).hostTask = s.hostTask := by unfold State.notify; split <;> rfl
@[simp] theorem State.notify_hostErrors (s : State) (p : Phase) (d : Byte) : (s.notify p d).hostErrors = s.hostErrors := by unfold State.notify; split <;> rfl
@[simp] theorem State.notify_hostReads (s : State) (p : Phase) (d : Byte) : (s.notify p d).hostReads = s.hostReads := by unfold State.notify; split <;> rfl
@[simp] theorem State.notify_pinFaults (s : State) (p : Phase) (d : Byte) : (s.notify p d).pinFaults = s.pinFaults := by unfold State.notify; split <;> rfl
@[simp] theorem State.notify_stepNo (s : State) (p : Phase) (d : Byte) : (s.notify p d).stepNo = s.stepNo := by unfold State.notify; split <;> rfl
@[simp] theorem State.notify_draws (s : State) (p : Phase) (d : Byte) : (s.notify p d).draws = s.draws := by unfold State.notify; split <;> rfl

/-! ### `setActs` -/

@[simp] theorem State.setActs_clkOut (s : State) (h : HostThread) (acts : List HostAct) : (s.setActs h acts).clkOut = s.clkOut := by cases h <;> rfl
@[simp] theorem State.setActs_dioOut (s : State) (h : HostThread) (acts : List HostAct) : (s.setActs h acts).dioOut = s.dioOut := by cases h <;> rfl
@[simp] theorem State.setActs_dioDir (s : State) (h : HostThread) (acts : List HostAct) : (s.setActs h acts).dioDir = s.dioDir := by cases h <;> rfl
@[simp] theorem State.setActs_q (s : State) (h : HostThread) (acts : List HostAct) : (s.setActs h acts).q = s.q := by cases h <;> rfl
@[simp] theorem State.setActs_bright (s : State) (h : HostThread) (acts : List HostAct) : (s.setActs h acts).bright = s.bright := by cases h <;> rfl
@[simp] theorem State.setActs_segBuf (s : State) (h : HostThread) (acts : List HostAct) : (s.setActs h acts).segBuf = s.segBuf := by cases h <;> rfl
@[simp] theorem State.setActs_result (s : State) (h : HostThread) (acts : List HostAct) : (s.setActs h acts).result = s.result := by cases h <;> rfl
@[simp] theorem State.setActs_errCode (s : State) (h : HostThread) (acts : List HostAct) : (s.setActs h acts).errCode = s.errCode := by cases h <;> rfl
@[simp] theorem State.setActs_errChar (s : State) (h : HostThread) (acts : List HostAct) : (s.setActs h acts).errChar = s.errChar := by cases h <;> rfl
@[simp] theorem State.setActs_errPos (s : State) (h : HostThread) (acts : List HostAct) : (s.setActs h acts).errPos = s.errPos := by cases h <;> rfl
@[simp] theorem State.setActs_tlCfgRed (s : State) (h : HostThread) (acts : List HostAct) : (s.setActs h acts).tlCfgRed = s.tlCfgRed := by cases h <;> rfl
@[simp] theorem State.setActs_tlCfgAmber (s : State) (h : HostThread) (acts : List HostAct) : (s.setActs h acts).tlCfgAmber = s.tlCfgAmber := by cases h <;> rfl
@[simp] theorem State.setActs_tlCfgGreen (s : State) (h : HostThread) (acts : List HostAct) : (s.setActs h acts).tlCfgGreen = s.tlCfgGreen := by cases h <;> rfl
@[simp] theorem State.setActs_tlCbEn (s : State) (h : HostThread) (acts : List HostAct) : (s.setActs h acts).tlCbEn = s.tlCbEn := by cases h <;> rfl
@[simp] theorem State.setActs_tlRun (s : State) (h : HostThread) (acts : List HostAct) : (s.setActs h acts).tlRun = s.tlRun := by cases h <;> rfl
@[simp] theorem State.setActs_tlPhase (s : State) (h : HostThread) (acts : List HostAct) : (s.setActs h acts).tlPhase = s.tlPhase := by cases h <;> rfl
@[simp] theorem State.setActs_tlR (s : State) (h : HostThread) (acts : List HostAct) : (s.setActs h acts).tlR = s.tlR := by cases h <;> rfl
@[simp] theorem State.setActs_tlA (s : State) (h : HostThread) (acts : List HostAct) : (s.setActs h acts).tlA = s.tlA := by cases h <;> rfl
@[simp] theorem State.setActs_tlG (s : State) (h : HostThread) (acts : List HostAct) : (s.setActs h acts).tlG = s.tlG := by cases h <;> rfl
@[simp] theorem State.setActs_tlCnt (s : State) (h : HostThread) (acts : List HostAct) : (s.setActs h acts).tlCnt = s.tlCnt := by cases h <;> rfl
@[simp] theorem State.setActs_tlBlink (s : State) (h : HostThread) (acts : List HostAct) : (s.setActs h acts).tlBlink = s.tlBlink := by cases h <;> rfl
@[simp] theorem State.setActs_lampR (s : State) (h : HostThread) (acts : List HostAct) : (s.setActs h acts).lampR = s.lampR := by cases h <;> rfl
@[simp] theorem State.setActs_lampA (s : State) (h : HostThread) (acts : List HostAct) : (s.setActs h acts).lampA = s.lampA := by cases h <;> rfl
@[simp] theorem State.setActs_lampG (s : State) (h : HostThread) (acts : List HostAct) : (s.setActs h acts).lampG = s.lampG := by cases h <;> rfl
@[simp] theorem State.setActs_params (s : State) (h : HostThread) (acts : List HostAct) : (s.setActs h acts).params = s.params := by cases h <;> rfl
@[simp] theorem State.setActs_port (s : State) (h : HostThread) (acts : List HostAct) : (s.setActs h acts).port = s.port := by cases h <;> rfl
@[simp] theorem State.setActs_portThread (s : State) (h : HostThread) (acts : List HostAct) : (s.setActs h acts).portThread = s.portThread := by cases h <;> rfl
@[simp] theorem State.setActs_wireTrace (s : State) (h : HostThread) (acts : List HostAct) : (s.setActs h acts).wireTrace = s.wireTrace := by cases h <;> rfl
@[simp] theorem State.setActs_phaseTrace (s : State) (h : HostThread) (acts : List HostAct) : (s.setActs h acts).phaseTrace = s.phaseTrace := by cases h <;> rfl
@[simp] theorem State.setActs_faults (s : State) (h : HostThread) (acts : List HostAct) : (s.setActs h acts).faults = s.faults := by cases h <;> rfl
@[simp] theorem State.setActs_resetMarks (s : State) (h : HostThread) (acts : List HostAct) : (s.setActs h acts).resetMarks = s.resetMarks := by cases h <;> rfl
@[simp] theorem State.setActs_turns (s : State) (h : HostThread) (acts : List HostAct) : (s.setActs h acts).turns = s.turns := by cases h <;> rfl
@[simp] theorem State.setActs_hostProg (s : State) (h : HostThread) (acts : List HostAct) : (s.setActs h acts).hostProg = if h = .caller then acts else s.hostProg := by cases h <;> rfl
@[simp] theorem State.setActs_hostTask (s : State) (h : HostThread) (acts : List HostAct) : (s.setActs h acts).hostTask = if h = .task then s.hostTask.map (fun t => { t with acts := acts }) else s.hostTask := by cases h <;> rfl
@[simp] theorem State.setActs_hostErrors (s : State) (h : HostThread) (acts : List HostAct) : (s.setActs h acts).hostErrors = s.hostErrors := by cases h <;> rfl
@[simp] theorem State.setActs_hostReads (s : State) (h : HostThread) (acts : List HostAct) : (s.setActs h acts).hostReads = s.hostReads := by cases h <;> rfl
@[simp] theorem State.setActs_pinFaults (s : State) (h : HostThread) (acts : List HostAct) : (s.setActs h acts).pinFaults = s.pinFaults := by cases h <;> rfl
@[simp] theorem State.setActs_stepNo (s : State) (h : HostThread) (acts : List HostAct) : (s.setActs h acts).stepNo = s.stepNo := by cases h <;> rfl
@[simp] theorem State.setActs_draws (s : State) (h : HostThread) (acts : List HostAct) : (s.setActs h acts).draws = s.draws := by cases h <;> rfl

/-! ### `cancelTask` -/

@[simp] theorem State.cancelTask_clkOut (s : State) : s.cancelTask.clkOut = s.clkOut := rfl
@[simp] theorem State.cancelTask_dioOut (s : State) : s.cancelTask.dioOut = s.dioOut := rfl
@[simp] theorem State.cancelTask_dioDir (s : State) : s.cancelTask.dioDir = s.dioDir := rfl
@[simp] theorem State.cancelTask_q (s : State) : s.cancelTask.q = s.q := rfl
@[simp] theorem State.cancelTask_bright (s : State) : s.cancelTask.bright = s.bright := rfl
@[simp] theorem State.cancelTask_segBuf (s : State) : s.cancelTask.segBuf = s.segBuf := rfl
@[simp] theorem State.cancelTask_result (s : State) : s.cancelTask.result = s.result := rfl
@[simp] theorem State.cancelTask_errCode (s : State) : s.cancelTask.errCode = s.errCode := rfl
@[simp] theorem State.cancelTask_errChar (s : State) : s.cancelTask.errChar = s.errChar := rfl
@[simp] theorem State.cancelTask_errPos (s : State) : s.cancelTask.errPos = s.errPos := rfl
@[simp] theorem State.cancelTask_tlCfgRed (s : State) : s.cancelTask.tlCfgRed = s.tlCfgRed := rfl
@[simp] theorem State.cancelTask_tlCfgAmber (s : State) : s.cancelTask.tlCfgAmber = s.tlCfgAmber := rfl
@[simp] theorem State.cancelTask_tlCfgGreen (s : State) : s.cancelTask.tlCfgGreen = s.tlCfgGreen := rfl
@[simp] theorem State.cancelTask_tlCbEn (s : State) : s.cancelTask.tlCbEn = s.tlCbEn := rfl
@[simp] theorem State.cancelTask_tlRun (s : State) : s.cancelTask.tlRun = s.tlRun := rfl
@[simp] theorem State.cancelTask_tlPhase (s : State) : s.cancelTask.tlPhase = s.tlPhase := rfl
@[simp] theorem State.cancelTask_tlR (s : State) : s.cancelTask.tlR = s.tlR := rfl
@[simp] theorem State.cancelTask_tlA (s : State) : s.cancelTask.tlA = s.tlA := rfl
@[simp] theorem State.cancelTask_tlG (s : State) : s.cancelTask.tlG = s.tlG := rfl
@[simp] theorem State.cancelTask_tlCnt (s : State) : s.cancelTask.tlCnt = s.tlCnt := rfl
@[simp] theorem State.cancelTask_tlBlink (s : State) : s.cancelTask.tlBlink = s.tlBlink := rfl
@[simp] theorem State.cancelTask_lampR (s : State) : s.cancelTask.lampR = s.lampR := rfl
@[simp] theorem State.cancelTask_lampA (s : State) : s.cancelTask.lampA = s.lampA := rfl
@[simp] theorem State.cancelTask_lampG (s : State) : s.cancelTask.lampG = s.lampG := rfl
@[simp] theorem State.cancelTask_params (s : State) : s.cancelTask.params = s.params := rfl
@[simp] theorem State.cancelTask_port (s : State) : s.cancelTask.port = s.port := rfl
@[simp] theorem State.cancelTask_portThread (s : State) : s.cancelTask.portThread = s.portThread := rfl
@[simp] theorem State.cancelTask_wireTrace (s : State) : s.cancelTask.wireTrace = s.wireTrace := rfl
@[simp] theorem State.cancelTask_phaseTrace (s : State) : s.cancelTask.phaseTrace = s.phaseTrace := rfl
@[simp] theorem State.cancelTask_faults (s : State) : s.cancelTask.faults = s.faults := rfl
@[simp] theorem State.cancelTask_resetMarks (s : State) : s.cancelTask.resetMarks = s.resetMarks := rfl
@[simp] theorem State.cancelTask_turns (s : State) : s.cancelTask.turns = s.turns := rfl
@[simp] theorem State.cancelTask_hostProg (s : State) : s.cancelTask.hostProg = s.hostProg := rfl
@[simp] theorem State.cancelTask_hostTask (s : State) : s.cancelTask.hostTask = s.hostTask.map fun t => { t with cancelled := true } := rfl
@[simp] theorem State.cancelTask_hostErrors (s : State) : s.cancelTask.hostErrors = s.hostErrors := rfl
@[simp] theorem State.cancelTask_hostReads (s : State) : s.cancelTask.hostReads = s.hostReads := rfl
@[simp] theorem State.cancelTask_pinFaults (s : State) : s.cancelTask.pinFaults = s.pinFaults := rfl
@[simp] theorem State.cancelTask_stepNo (s : State) : s.cancelTask.stepNo = s.stepNo := rfl
@[simp] theorem State.cancelTask_draws (s : State) : s.cancelTask.draws = s.draws := rfl

/-! ### `reportHostError` -/

@[simp] theorem State.reportHostError_clkOut (s : State) (p : Option Nat) : (s.reportHostError p).clkOut = s.clkOut := rfl
@[simp] theorem State.reportHostError_dioOut (s : State) (p : Option Nat) : (s.reportHostError p).dioOut = s.dioOut := rfl
@[simp] theorem State.reportHostError_dioDir (s : State) (p : Option Nat) : (s.reportHostError p).dioDir = s.dioDir := rfl
@[simp] theorem State.reportHostError_q (s : State) (p : Option Nat) : (s.reportHostError p).q = s.q := rfl
@[simp] theorem State.reportHostError_bright (s : State) (p : Option Nat) : (s.reportHostError p).bright = s.bright := rfl
@[simp] theorem State.reportHostError_segBuf (s : State) (p : Option Nat) : (s.reportHostError p).segBuf = s.segBuf := rfl
@[simp] theorem State.reportHostError_result (s : State) (p : Option Nat) : (s.reportHostError p).result = s.result := rfl
@[simp] theorem State.reportHostError_errCode (s : State) (p : Option Nat) : (s.reportHostError p).errCode = s.errCode := rfl
@[simp] theorem State.reportHostError_errChar (s : State) (p : Option Nat) : (s.reportHostError p).errChar = s.errChar := rfl
@[simp] theorem State.reportHostError_errPos (s : State) (p : Option Nat) : (s.reportHostError p).errPos = s.errPos := rfl
@[simp] theorem State.reportHostError_tlCfgRed (s : State) (p : Option Nat) : (s.reportHostError p).tlCfgRed = s.tlCfgRed := rfl
@[simp] theorem State.reportHostError_tlCfgAmber (s : State) (p : Option Nat) : (s.reportHostError p).tlCfgAmber = s.tlCfgAmber := rfl
@[simp] theorem State.reportHostError_tlCfgGreen (s : State) (p : Option Nat) : (s.reportHostError p).tlCfgGreen = s.tlCfgGreen := rfl
@[simp] theorem State.reportHostError_tlCbEn (s : State) (p : Option Nat) : (s.reportHostError p).tlCbEn = s.tlCbEn := rfl
@[simp] theorem State.reportHostError_tlRun (s : State) (p : Option Nat) : (s.reportHostError p).tlRun = s.tlRun := rfl
@[simp] theorem State.reportHostError_tlPhase (s : State) (p : Option Nat) : (s.reportHostError p).tlPhase = s.tlPhase := rfl
@[simp] theorem State.reportHostError_tlR (s : State) (p : Option Nat) : (s.reportHostError p).tlR = s.tlR := rfl
@[simp] theorem State.reportHostError_tlA (s : State) (p : Option Nat) : (s.reportHostError p).tlA = s.tlA := rfl
@[simp] theorem State.reportHostError_tlG (s : State) (p : Option Nat) : (s.reportHostError p).tlG = s.tlG := rfl
@[simp] theorem State.reportHostError_tlCnt (s : State) (p : Option Nat) : (s.reportHostError p).tlCnt = s.tlCnt := rfl
@[simp] theorem State.reportHostError_tlBlink (s : State) (p : Option Nat) : (s.reportHostError p).tlBlink = s.tlBlink := rfl
@[simp] theorem State.reportHostError_lampR (s : State) (p : Option Nat) : (s.reportHostError p).lampR = s.lampR := rfl
@[simp] theorem State.reportHostError_lampA (s : State) (p : Option Nat) : (s.reportHostError p).lampA = s.lampA := rfl
@[simp] theorem State.reportHostError_lampG (s : State) (p : Option Nat) : (s.reportHostError p).lampG = s.lampG := rfl
@[simp] theorem State.reportHostError_params (s : State) (p : Option Nat) : (s.reportHostError p).params = s.params := rfl
@[simp] theorem State.reportHostError_port (s : State) (p : Option Nat) : (s.reportHostError p).port = s.port := rfl
@[simp] theorem State.reportHostError_portThread (s : State) (p : Option Nat) : (s.reportHostError p).portThread = s.portThread := rfl
@[simp] theorem State.reportHostError_wireTrace (s : State) (p : Option Nat) : (s.reportHostError p).wireTrace = s.wireTrace := rfl
@[simp] theorem State.reportHostError_phaseTrace (s : State) (p : Option Nat) : (s.reportHostError p).phaseTrace = s.phaseTrace := rfl
@[simp] theorem State.reportHostError_faults (s : State) (p : Option Nat) : (s.reportHostError p).faults = s.faults := rfl
@[simp] theorem State.reportHostError_resetMarks (s : State) (p : Option Nat) : (s.reportHostError p).resetMarks = s.resetMarks := rfl
@[simp] theorem State.reportHostError_turns (s : State) (p : Option Nat) : (s.reportHostError p).turns = s.turns := rfl
@[simp] theorem State.reportHostError_hostProg (s : State) (p : Option Nat) : (s.reportHostError p).hostProg = s.hostProg := rfl
@[simp] theorem State.reportHostError_hostTask (s : State) (p : Option Nat) : (s.reportHostError p).hostTask = s.hostTask := rfl
@[simp] theorem State.reportHostError_hostErrors (s : State) (p : Option Nat) : (s.reportHostError p).hostErrors = s.hostErrors ++ [{ char := s.errChar, position := p.getD s.errPos.toNat }] := rfl
@[simp] theorem State.reportHostError_hostReads (s : State) (p : Option Nat) : (s.reportHostError p).hostReads = s.hostReads := rfl
@[simp] theorem State.reportHostError_pinFaults (s : State) (p : Option Nat) : (s.reportHostError p).pinFaults = s.pinFaults := rfl
@[simp] theorem State.reportHostError_stepNo (s : State) (p : Option Nat) : (s.reportHostError p).stepNo = s.stepNo := rfl
@[simp] theorem State.reportHostError_draws (s : State) (p : Option Nat) : (s.reportHostError p).draws = s.draws := rfl

/-! ### The fields an error report or a notification writes -/

@[simp] theorem State.raise_invalidCharacter (s : State) (c : Byte) (p : BitVec 3) :
    s.raise (.invalidCharacter c p) = { s with errCode := .invalidCharacter, errChar := c, errPos := p } := rfl

@[simp] theorem State.raise_invalidConfiguration (s : State) :
    s.raise .invalidConfiguration = { s with errCode := .invalidConfiguration } := rfl

@[simp] theorem State.raise_invalidArgument (s : State) :
    s.raise .invalidArgument = { s with errCode := .invalidArgument } := rfl

@[simp] theorem State.raise_illegalCommand (s : State) :
    s.raise .illegalCommand = { s with errCode := .illegalCommand } := rfl

theorem State.notify_phaseTrace (s : State) (p : Phase) (d : Byte) :
    (s.notify p d).phaseTrace
      = s.phaseTrace ++ if s.tlCbEn = 1#1 then [{ code := phaseBits p, duration := d }] else [] := by
  unfold State.notify; split <;> simp

/-- A notification writes the phase-event trace and nothing else. -/
theorem State.notify_eq (s : State) (p : Phase) (d : Byte) :
    s.notify p d = { s with phaseTrace := s.phaseTrace
      ++ if s.tlCbEn = 1#1 then [{ code := phaseBits p, duration := d }] else [] } := by
  unfold State.notify; split <;> simp

end Sys2Proof.Machine
end

