-- ==== Sys2Proof/Laws/Ops.lean ====
section
/-! SUPPORT. One spec lemma per shared operation: everything it can do, for the proofs to cite instead of unfolding it. -/

namespace Sys2Proof.Machine

/-! ### The MBPE's own numbers -/

@[simp] theorem mbpe_idxInRange (idx : BitVec 3) : idxInRange mbpeConstants idx = decide (idx.toNat < 6) := rfl

theorem mbpe_sessionInRange (addr n : BitVec 4) :
    sessionInRange mbpeConstants addr n = true ↔ addr.toNat ≤ 5 ∧ addr.toNat + n.toNat ≤ 6 := by
  show (decide (addr.toNat < 6) && decide (addr.toNat + n.toNat ≤ 6)) = true ↔ _
  simp only [Bool.and_eq_true, decide_eq_true_eq]; omega

@[simp] theorem mbpe_seconds (value : Byte) : mbpeConstants.seconds value = value := by
  simp [Constants.seconds, mbpeConstants]

@[simp] theorem mbpe_ticksOf (s : Byte) : mbpeConstants.ticksOf s = BitVec.ofNat 9 (2 * s.toNat) := rfl

@[simp] theorem mbpe_slotTicks : mbpeConstants.slotTicks = 1#9 := rfl

@[simp] theorem mbpe_lastBlinkSlot : mbpeConstants.lastBlinkSlot = 5#3 := rfl

@[simp] theorem mbpe_steadyGreen (g : Byte) : mbpeConstants.steadyGreen g = g - 3#8 := rfl

/-- A wait of a whole number of seconds is 0 TICKs only if it is 0 seconds. -/
theorem mbpe_ticksOf_eq_zero (s : Byte) : mbpeConstants.ticksOf s = 0#9 ↔ s = 0#8 := by
  rw [mbpe_ticksOf, ← BitVec.toNat_inj, ← BitVec.toNat_inj]; simp; omega

/-! ### Commands -/

theorem busy_eq_false_iff (s : State) : s.busy = false ↔ s.q = [] := by
  cases h : s.q <;> simp [State.busy, h]

theorem serialCommand_idle {s : State} (h : s.q = []) (i : Instr) (f : State → State) :
    serialCommand i f s = .next (f s.accept) := by simp [serialCommand, (busy_eq_false_iff s).2 h]

theorem serialCommand_busy {s : State} (h : s.q ≠ []) (i : Instr) (f : State → State) :
    serialCommand i f s = .next (s.hold (encode i)) := by
  have : s.busy = true := by simpa using mt (busy_eq_false_iff s).1 h
  simp [serialCommand, this]

/-- A serial-class command is held, with Q not empty, or accepted, with Q empty; nothing else can happen. -/
theorem serialCommand_cases {i : Instr} {f : State → State} {s : State} {r : Result} (h : serialCommand i f s = r) :
    (s.q ≠ [] ∧ r = .next (s.hold (encode i))) ∨ (s.q = [] ∧ r = .next (f s.accept)) := by
  by_cases hq : s.q = []
  · exact .inr ⟨hq, by rw [← h, serialCommand_idle hq]⟩
  · exact .inl ⟨hq, by rw [← h, serialCommand_busy hq]⟩

theorem immediateCommand_eq (f : State → State) (s : State) : immediateCommand f s = .next (f s.accept) := rfl

/-! ### The fault record -/

theorem finalObservation_clean {s : State} (h : s.NoFaultRecorded) : s.finalObservation = some s.observe := by
  simp [State.finalObservation, h]

theorem finalObservation_eq_none (s : State) : s.finalObservation = none ↔ s.faults ≠ [] := by
  simp [State.finalObservation]

/-! ### Pin writes -/

theorem lampWrite_ok {s : State} (h : s.pinFault = false) (l : Lamp) (b : Bit) (rest : State → State) :
    lampWrite l b rest s = rest (s.takeAnswer.setLamp l b) := by simp [lampWrite, h]

theorem lampWrite_failed {s : State} (h : s.pinFault = true) (l : Lamp) (b : Bit) (rest : State → State) :
    lampWrite l b rest s = s.takeAnswer.lampFailure l b := by simp [lampWrite, h]

/-- A property that a failed write gives, and that the rest of the step gives after a write that succeeded, holds after
the lamp write and the rest. -/
theorem lampWrite_induct {P : State → Prop} (s : State) (l : Lamp) (b : Bit) (rest : State → State)
    (failed : P (s.takeAnswer.lampFailure l b)) (ok : P (rest (s.takeAnswer.setLamp l b))) :
    P (lampWrite l b rest s) := by unfold lampWrite; split <;> assumption

/-- A failed lamp write stops the cycle, reports the failure and changes no field but the lamp. -/
theorem lampFailure_eq (s : State) (l : Lamp) (b : Bit) :
    s.lampFailure l b = { s.setLamp l s.failedLevel with
      tlRun := 0#1, errCode := .pinFailure, faults := s.faults ++ [.lamp l b], draws := s.draws + 1 } := by
  cases l <;> rfl

theorem pinFault_of_answerOk {s : State} (h : s.pinsAnswerOk = true) : s.pinFault = false := by
  cases hp : s.pinFaults with
  | nil => simp [State.pinFault, hp]
  | cons a l => simp_all [State.pinFault, State.pinsAnswerOk]

theorem takeAnswer_answerOk {s : State} (h : s.pinsAnswerOk = true) : s.takeAnswer.pinsAnswerOk = true := by
  cases hp : s.pinFaults with
  | nil => simp [State.pinsAnswerOk, hp]
  | cons a l => simp_all [State.pinsAnswerOk]

/-! ### The bus step -/

theorem busStep_idle {s : State} (h : s.q = []) : busStep s = s := by simp [busStep, h]

theorem busStep_ok {s : State} {e : PinEvent} {rest : List PinEvent} (hq : s.q = e :: rest)
    (h : s.pinFault = false) : busStep s = s.takeAnswer.performHead e rest := by simp [busStep, hq, h]

theorem busStep_failed {s : State} {e : PinEvent} {rest : List PinEvent} (hq : s.q = e :: rest)
    (h : s.pinFault = true) : busStep s = s.takeAnswer.busFailure e := by simp [busStep, hq, h]

/-- Everything a bus step can do: nothing with Q empty, the head's failure, or the head's performance. -/
theorem busStep_cases (s : State) :
    (s.q = [] ∧ busStep s = s) ∨
    ∃ e rest, s.q = e :: rest ∧
      ((s.pinFault = true ∧ busStep s = s.takeAnswer.busFailure e) ∨
       (s.pinFault = false ∧ busStep s = s.takeAnswer.performHead e rest)) := by
  cases hq : s.q with
  | nil => exact .inl ⟨rfl, busStep_idle hq⟩
  | cons e rest =>
    refine .inr ⟨e, rest, rfl, ?_⟩
    cases h : s.pinFault
    · exact .inr ⟨rfl, busStep_ok hq h⟩
    · exact .inl ⟨rfl, busStep_failed hq h⟩

/-! ### The traffic FSM -/

theorem tick_stopped {s : State} (h : s.tlRun = 0#1) : tick s = .next s := by simp [tick, h]

theorem tick_running {s : State} (h : s.tlRun ≠ 0#1) (hr : s.tickInRange = true) :
    tick s = .next (runningTick s) := by simp [tick, h, hr]

/-- Everything a TICK can do: nothing while stopped, a running tick, or the fault outside the spec's range. -/
theorem tick_cases (s : State) :
    (s.tlRun = 0#1 ∧ tick s = .next s) ∨
    (s.tlRun ≠ 0#1 ∧ s.tickInRange = true ∧ tick s = .next (runningTick s)) ∨
    (s.tlRun ≠ 0#1 ∧ s.tickInRange = false ∧ tick s = .fault .trafficOutOfRange) := by
  unfold tick
  by_cases h : s.tlRun = 0#1
  · exact .inl ⟨h, by simp [h]⟩
  · cases hr : s.tickInRange <;> simp [h]

theorem runningTick_waiting {s : State} (h : s.tlCnt - 1#9 ≠ 0#9) : runningTick s = { s with tlCnt := s.tlCnt - 1#9 } := by
  simp [runningTick, h]

theorem runningTick_ends {s : State} (h : s.tlCnt - 1#9 = 0#9) : runningTick s = waitEnd { s with tlCnt := 0#9 } := by
  simp [runningTick, h]

/-! ### The step -/

theorem step_unscheduled {s : State} (h : s.turns = []) : step s = .next s := by simp [step, h]

theorem step_turn {s : State} {t : Turn} {rest : List Turn} (h : s.turns = t :: rest) :
    step s = takeTurn t { s with turns := rest, stepNo := s.stepNo + 1 } := by simp [step, h]

theorem holds_busy {s : State} {w : Word} (h : s.holds w = true) : s.q ≠ [] := by
  intro hq; simp [State.holds, State.busy, hq] at h

theorem hostStep_accepts {s : State} {w : Word} (h : s.port = some w) (hw : s.holds w = false) (t : HostThread) :
    hostStep t s = presentWord w s := by simp [hostStep, h, hw]

theorem hostStep_waits {s : State} {w : Word} (h : s.port = some w) (hw : s.holds w = true) {t : HostThread}
    (ha : s.actWaits t = true) : hostStep t s = .next s := by simp [hostStep, h, hw, ha]

/-- A thread takes its next act with no word on the port, or beside a held one. -/
theorem hostStep_free {s : State} {t : HostThread}
    (h : s.port = none ∨ ∃ w, s.port = some w ∧ s.holds w = true ∧ s.actWaits t = false) :
    hostStep t s = threadStep t s := by
  obtain h | ⟨w, h, hw, ha⟩ := h <;> simp [hostStep, *]

/-- Everything a host step can do: present a word that is accepted, wait beside a held one, or take the thread's next act. -/
theorem hostStep_cases (t : HostThread) (s : State) :
    (∃ w, s.port = some w ∧ s.holds w = false ∧ hostStep t s = presentWord w s) ∨
    ((∃ w, s.port = some w ∧ s.holds w = true) ∧ s.actWaits t = true ∧ hostStep t s = .next s) ∨
    ((s.port = none ∨ ∃ w, s.port = some w ∧ s.holds w = true ∧ s.actWaits t = false) ∧
      hostStep t s = threadStep t s) := by
  cases hp : s.port with
  | none => exact .inr (.inr ⟨.inl rfl, hostStep_free (.inl hp)⟩)
  | some w =>
    cases hw : s.holds w
    · exact .inl ⟨w, rfl, hw, hostStep_accepts hp hw t⟩
    · cases ha : s.actWaits t
      · exact .inr (.inr ⟨.inr ⟨w, rfl, hw, rfl⟩, hostStep_free (.inr ⟨w, hp, hw, ha⟩)⟩)
      · exact .inr (.inl ⟨⟨w, rfl, hw⟩, rfl, hostStep_waits hp hw ha⟩)

theorem threadStep_done {s : State} {t : HostThread} (hp : s.acts t = []) : threadStep t s = .next (s.endThread t) := by
  simp [threadStep, hp]

theorem threadStep_act {s : State} {t : HostThread} {a : HostAct} {rest : List HostAct} (hp : s.acts t = a :: rest) :
    threadStep t s = hostAct t a rest s := by simp [threadStep, hp]

/-- The act that a thread takes beside a held word is no issue: the port keeps its word. -/
theorem actWaits_issue {s : State} {t : HostThread} {w : Word} {rest : List HostAct} (hp : s.acts t = .issue w :: rest) :
    s.actWaits t = true := by simp [State.actWaits, hp, HostAct.waitsForPort]

/-- Everything an act of the host that issues no word can do: it changes the threads' programs and the host's errors and
nothing of the block. -/
theorem hostAct_frame {h : HostThread} {a : HostAct} {rest : List HostAct} {s t : State} (ha : ∀ w, a ≠ .issue w)
    (e : hostAct h a rest s = .next t) :
    t = { s with
      hostProg := t.hostProg, hostTask := t.hostTask, hostErrors := t.hostErrors, hostReads := t.hostReads } := by
  cases a with
  | issue w => exact absurd rfl (ha w)
  | readStatus | waitIdle | waitStopped | abandonOnError | pause | clear | spawn | join | clockShow =>
    simp only [hostAct, Host.Outcome.next.injEq] at e
    subst e
    cases h <;> simp only [State.endPause, State.setActs, State.cancelTask, State.reportHostError] <;> (try split) <;> rfl

theorem actWaits_ownCheck {s : State} {t : HostThread} {n : Nat} {p : Option Nat} {rest : List HostAct}
    (hp : s.acts t = .abandonOnError n p :: rest) (ht : s.portThread = t) : s.actWaits t = true := by
  simp [State.actWaits, hp, HostAct.waitsForPort, ht]

theorem hostAct_answers (h : HostThread) {a : HostAct} (rest : List HostAct) (s : State) (ha : ∀ w, a ≠ .issue w) :
    ∃ t, hostAct h a rest s = .next t := by
  cases a <;> first | exact absurd rfl (ha _) | exact ⟨_, rfl⟩

/-- What a thread does beside a held word: a next state in which the block is as it was, its port included. -/
theorem threadStep_frame {h : HostThread} {s : State} (ha : s.actWaits h = false) :
    ∃ t, threadStep h s = .next t ∧ t = { s with
      hostProg := t.hostProg, hostTask := t.hostTask, hostErrors := t.hostErrors, hostReads := t.hostReads } := by
  cases e : s.acts h with
  | nil => exact ⟨_, threadStep_done e, by cases h <;> rfl⟩
  | cons a rest =>
    have hi : ∀ w, a ≠ .issue w := by rintro w rfl; simp [actWaits_issue e] at ha
    obtain ⟨t, ht⟩ := hostAct_answers h rest s hi
    exact ⟨t, by rw [threadStep_act e, ht], hostAct_frame hi ht⟩

theorem takeTurn_turn (h : HostThread) (s : State) : takeTurn h.turn s = hostStep h s := by cases h <;> rfl

theorem presentWord_ok {w : Word} {i : Instr} (h : decode w = .ok i) (s : State) : presentWord w s = exec i s := by
  simp [presentWord, h]

theorem presentWord_error {w : Word} {e : DecodeError} (h : decode w = .error e) (s : State) :
    presentWord w s = illegalWord w s := by simp [presentWord, h]

end Sys2Proof.Machine
end

