-- ==== Sys2Proof/Laws/PerInstr.lean ====
section
/-! SUPPORT. Statements made once per command. OpClass: the class of a command is read from its word's OP alone
(30_encoding.md R93, R95). -/

namespace Sys2Proof.Laws.OpClass

/-- The encoded word's class is the command's, and its OP is the row's. -/
def Statement (i : Instr) : Prop :=
  isSerialWord (encode i) = isSerialInstr i ∧ 1 ≤ (opOf (encode i)).toNat ∧ (opOf (encode i)).toNat ≤ 12

theorem opOf_append (op : BitVec 4) (x : BitVec 28) : opOf (op ++ x) = op := by
  ext i hi
  simp only [opOf, BitVec.getElem_extractLsb']
  rw [BitVec.getLsbD_append]
  have : ¬ 28 + i < 28 := by omega
  simp [this, BitVec.getLsbD_eq_getElem hi]

theorem of_op {i : Instr} (op : BitVec 4) (x : BitVec 28) (h : encode i = op ++ x)
    (hc : (decide (2 ≤ op.toNat) && decide (op.toNat ≤ 8)) = isSerialInstr i)
    (h1 : 1 ≤ op.toNat) (h12 : op.toNat ≤ 12) : Statement i := by
  unfold Statement isSerialWord
  rw [h, opOf_append]
  exact ⟨hc, h1, h12⟩

theorem encodeChar (char : Byte) (point : Bit) : Statement (.encodeChar char point) :=
  of_op 0x1#4 _ rfl rfl (by decide) (by decide)
theorem busStart : Statement .busStart := ⟨by decide, by decide, by decide⟩
theorem busStop : Statement .busStop := ⟨by decide, by decide, by decide⟩
theorem busWrite (byte : Byte) : Statement (.busWrite byte) := of_op 0x4#4 _ rfl rfl (by decide) (by decide)
theorem segLoad (idx : BitVec 3) (byte : Byte) : Statement (.segLoad idx byte) :=
  of_op 0x5#4 _ rfl rfl (by decide) (by decide)
theorem segLoadChar (idx : BitVec 3) (char : Byte) (point : Bit) : Statement (.segLoadChar idx char point) :=
  of_op 0x6#4 _ rfl rfl (by decide) (by decide)
theorem setSegments (addr n : BitVec 4) : Statement (.setSegments addr n) :=
  of_op 0x7#4 _ rfl rfl (by decide) (by decide)
theorem setBrightness (level : BitVec 3) : Statement (.setBrightness level) :=
  of_op 0x8#4 _ rfl rfl (by decide) (by decide)
theorem tlConfig (sel : BitVec 2) (value : Byte) : Statement (.tlConfig sel value) :=
  of_op 0x9#4 _ rfl rfl (by decide) (by decide)
theorem tlStart : Statement .tlStart := ⟨by decide, by decide, by decide⟩
theorem tlStop : Statement .tlStop := ⟨by decide, by decide, by decide⟩
theorem tlCbEnable (en : Bit) : Statement (.tlCbEnable en) := of_op 0xC#4 _ rfl rfl (by decide) (by decide)

end Sys2Proof.Laws.OpClass
end

