-- ==== Sys2Proof/Tests/Slice0.lean ====
section
/-! SUPPORT. Tests of the model on the vectors of 95_test_vectors.md and on words written out from 30_encoding.md, and a
witness for the hypotheses of each statement. Every expected value is the spec's, not the model's. -/

namespace Sys2Proof.Tests

open Sys2Proof Sys2Proof.Machine

/-! ### Helpers -/

/-- The next state of an answer. -/
def answer (r : Result) : Option State :=
  match r with
  | .next s => some s
  | .fault _ => none
  | .refused _ => none

/-- The state after the word is presented on the port and the host moves. -/
def issue (w : Word) (s : State) : Option State := answer (step (s.withFetchWord 32 w.toNat))

/-- STATUS after the word is issued from reset. -/
def statusAfter (w : Word) : Option Word := (issue w State.reset).map State.status

/-- One step with the turn next. -/
def turn (t : Turn) (s : State) : Option State := answer (step { s with turns := [t] })

/-- A state with the events pending. -/
def pending (es : List PinEvent) : State := { State.reset with q := es }

/-- An engine with two events pending and a word held on the port. -/
def busyHeld : State := { pending [.clk 0, .dio 0] with port := some 0x50000011 }

/-- The durations 1, 1 and 5 of the timeline of 95_test_vectors.md section 6, running, with the callback on and lamps
dark. -/
def running : State :=
  { State.reset with
    tlCfgRed := 1, tlCfgAmber := 1, tlCfgGreen := 5, tlR := 1, tlA := 1, tlG := 5, tlCbEn := 1, tlRun := 1 }

/-- The timeline at tick 1: in Red with one TICK left. -/
def redEnding : State := { running with tlPhase := .red, tlCnt := 1, lampR := 1 }
/-- The timeline at tick 5: in Green with one TICK left. -/
def greenEnding : State := { running with tlPhase := .green, tlCnt := 1, lampG := 1 }
/-- The timeline at tick 7: in blink slot 1. -/
def slotOne : State := { running with tlPhase := .greenBlink, tlBlink := 1, tlCnt := 1, lampG := 1 }
/-- The timeline at tick 11: in the last blink slot. -/
def slotFive : State := { running with tlPhase := .greenBlink, tlBlink := 5, tlCnt := 1, lampG := 1 }
/-- The timeline at tick 13: in Amber with one TICK left. -/
def amberEnding : State := { running with tlPhase := .amber, tlBlink := 5, tlCnt := 1, lampA := 1 }

/-- What a timeline row shows: phase, slot, count, lamps R A G and the phase-events of the step as code and duration. -/
structure Row where
  phase : Phase
  slot : Nat
  count : Nat
  lamps : List Nat
  events : List (Nat × Nat)
  deriving DecidableEq, Repr

/-- The row of a state. -/
def row (s : State) : Row :=
  { phase := s.tlPhase, slot := s.tlBlink.toNat, count := s.tlCnt.toNat,
    lamps := [s.lampR.toNat, s.lampA.toNat, s.lampG.toNat],
    events := s.phaseTrace.map fun e => (e.code.toNat, e.duration.toNat) }

/-! ### WellFormed smoke: each check refuses an ill-formed term -/

theorem test_wf_segLoad_idx : Instr.wellFormed (.segLoad 6 0x11) = false := by decide
theorem test_wf_segLoadChar_idx : Instr.wellFormed (.segLoadChar 7 0x61 0) = false := by decide
theorem test_wf_setSegments_addr : Instr.wellFormed (.setSegments 6 0) = false := by decide
theorem test_wf_setSegments_sum : Instr.wellFormed (.setSegments 1 6) = false := by decide
theorem test_wf_setSegments_sum_wide : Instr.wellFormed (.setSegments 5 15) = false := by decide
theorem test_wf_tlConfig_sel : Instr.wellFormed (.tlConfig 3 5) = false := by decide
theorem test_wf_legal : Instr.WellFormed (.setSegments 5 1) ∧ Instr.WellFormed (.segLoad 5 0) := by decide

/-! ### Decode: a word of every row written out from 30_encoding.md R91 -/

theorem test_decode_encode : decode 0b0001_0000000000000000000_1_00110001#32 = .ok (.encodeChar 0x31 1) := by decide
theorem test_decode_busStart : decode 0b0010_0000000000000000000000000000#32 = .ok .busStart := by decide
theorem test_decode_busStop : decode 0b0011_0000000000000000000000000000#32 = .ok .busStop := by decide
theorem test_decode_busWrite : decode 0b0100_00000000000000000000_10100101#32 = .ok (.busWrite 0xA5) := by decide
theorem test_decode_segLoad : decode 0b0101_000000000_101_00000000_10000001#32 = .ok (.segLoad 5 0x81) := by decide
theorem test_decode_segLoadChar :
    decode 0b0110_000000000_010_0000000_1_01000011#32 = .ok (.segLoadChar 2 0x43 1) := by decide
theorem test_decode_setSegments :
    decode 0b0111_00000000_0101_000000000000_0001#32 = .ok (.setSegments 5 1) := by decide
theorem test_decode_setBrightness : decode 0b1000_0000000000000000000000000_110#32 = .ok (.setBrightness 6) := by decide
theorem test_decode_tlConfig :
    decode 0b1001_0000000000_01_00000000_11111111#32 = .ok (.tlConfig 1 0xFF) := by decide
theorem test_decode_tlStart : decode 0b1010_0000000000000000000000000000#32 = .ok .tlStart := by decide
theorem test_decode_tlStop : decode 0b1011_0000000000000000000000000000#32 = .ok .tlStop := by decide
theorem test_decode_tlCbEnable : decode 0b1100_000000000000000000000000000_1#32 = .ok (.tlCbEnable 1) := by decide
theorem test_decode_reserved_op : decode 0xD0000000#32 = .error (.reservedOp 0xD) := by decide
theorem test_decode_reserved_bits : decode 0x50080011#32 = .error (.reservedBits 5) := by decide
theorem test_decodeTableWord : decodeTableWord 32 0x70020002 = some (.setSegments 2 2) := by decide

/-! ### ENCODE (95 section 2) -/

/-- E1 and E8. -/
theorem test_encode_ok :
    statusAfter 0x10000061 = some 0xE1DC0000#32 ∧ statusAfter 0x10000120 = some 0xE2000000#32 := by decide
/-- E13, E17 and E26. -/
theorem test_encode_errors :
    statusAfter 0x10000021 = some 0xE0000212#32 ∧ statusAfter 0x100000FF = some 0xE0000FF2#32 ∧
    statusAfter 0x10000261 = some 0xE0000008#32 := by decide
set_option maxRecDepth 8000 in
/-- E30: 65 supported codes. -/
theorem test_encode_supported :
    ((List.range 256).countP fun n => (charIndex (BitVec.ofNat 8 n)).isSome) = 65 := by decide

/-! ### Bus sequences and sessions (95 sections 3 to 5) -/

/-- B1: the four events of a start. -/
theorem test_busStart : (issue 0x20000000 State.reset).map (fun s => (s.q, s.busy))
    = some ([.dio 1, .clk 1, .dio 0, .clk 0], true) := by decide
/-- B2: the four events of a stop. -/
theorem test_busStop : (issue 0x30000000 State.reset).map (fun s => s.q)
    = some [.clk 0, .dio 0, .clk 1, .dio 1] := by decide
/-- B4: the 29 events of 0xA5. -/
theorem test_busWrite : (issue 0x400000A5 State.reset).map (fun s => s.q)
    = some [.clk 0, .dio 1, .clk 1, .clk 0, .dio 0, .clk 1, .clk 0, .dio 1, .clk 1, .clk 0, .dio 0, .clk 1,
        .clk 0, .dio 0, .clk 1, .clk 0, .dio 1, .clk 1, .clk 0, .dio 0, .clk 1, .clk 0, .dio 1, .clk 1,
        .clk 0, .dir .input, .clk 1, .clk 0, .dir .output] := by decide
/-- B7: a reserved bit appends no event. -/
theorem test_busWrite_reserved :
    (issue 0x40000140 State.reset).map (fun s => (s.q, s.errCode)) = some ([], .illegalCommand) := by decide
/-- X7 and the last entry. -/
theorem test_segLoad :
    statusAfter 0x50060011 = some 0xE0000006#32 ∧
    (issue 0x50050011 State.reset).map (fun s => s.segBuf.toList) = some [0, 0, 0, 0, 0, 0x11] := by decide
/-- X10, X12 and P4 step 1. -/
theorem test_segLoadChar :
    statusAfter 0x60070021 = some 0xE0000006#32 ∧ statusAfter 0x60050040 = some 0xE0005402#32 ∧
    (issue 0x60000048 State.reset).map (fun s => s.segBuf.toList) = some [0x76, 0, 0, 0, 0, 0] := by decide
/-- D2: 111 events, BUSY, the first frame's start. -/
theorem test_setSegments_empty :
    (issue 0x70000000 State.reset).map (fun s => (s.q.length, s.status, s.q.take 4))
      = some (111, 0xE0000001#32, [.dio 1, .clk 1, .dio 0, .clk 0]) := by decide
/-- D6, D7, D8 and D9. -/
theorem test_setSegments_ranges :
    statusAfter 0x70050002 = some 0xE0000006#32 ∧ statusAfter 0x70060000 = some 0xE0000006#32 ∧
    statusAfter 0x70000007 = some 0xE0000006#32 ∧ statusAfter 0x70010006 = some 0xE0000006#32 := by decide
/-- P1 step 1 and X14. -/
theorem test_setBrightness :
    statusAfter 0x80000002 = some 0x40000000#32 ∧ statusAfter 0x80000008 = some 0xE0000008#32 := by decide
/-- Q1: a serial command is held while BUSY, an ENCODE is not. -/
theorem test_held :
    (issue 0x50000011 (pending [.clk 0])).map (fun s => (s.port, s.segBuf[0])) = some (some 0x50000011#32, 0) ∧
    (issue 0x10000061 (pending [.clk 0])).map State.status = some 0xE1DC0001#32 := by decide
/-- Q2: a held illegal word writes ERR_CODE only at acceptance. -/
theorem test_held_illegal :
    (issue 0x50080011 (pending [.clk 0])).map (fun s => (s.errCode, s.port)) = some (.ok, some 0x50080011#32) ∧
    statusAfter 0x50080011 = some 0xE0000008#32 := by decide
/-- R34: STATUS read while a command is held, BUSY = 1 in it; the word stays on the port, the next to issue waits. -/
theorem test_read_while_held :
    (turn .host { busyHeld with hostProg := [.readStatus, .issue 0xB0000000] }).map
        (fun s => (s.hostReads, s.port, s.hostProg)) = some ([0xE0000001#32], some 0x50000011#32, [.issue 0xB0000000]) ∧
    (turn .host { busyHeld with hostProg := [.issue 0xB0000000] }).map
        (fun s => (s.port, s.hostProg)) = some (some 0x50000011#32, [.issue 0xB0000000]) := by decide
/-- R182: the check of the held load itself waits; the other thread's check does not. -/
theorem test_check_while_held :
    (turn .host { busyHeld with hostProg := [.abandonOnError 0 none] }).map (fun s => s.hostProg)
      = some [.abandonOnError 0 none] ∧
    (turn .task { busyHeld with hostTask := some { acts := [.abandonOnError 0 none], cancelled := false } }).map
        (fun s => (s.acts .task, s.port)) = some ([], some 0x50000011#32) := by decide
/-- B1, first of its events left: the last event of the start. -/
theorem test_busStep :
    (turn .serial (pending [.dio 0, .clk 0])).map (fun s => (s.q, s.dioOut, s.clkOut, s.wireTrace))
      = some ([.clk 0], 0, 1, [.performed (.dio 0)]) := by decide
/-- F1: the failed DIO write. -/
theorem test_busStep_failure :
    (turn .serial { pending [.dio 0, .clk 1] with pinFaults := [true] }).map
        (fun s => (s.q, s.errCode, s.wireTrace, s.faults, s.clkOut))
      = some ([], .pinFailure, [.failed (.dio 0)], [.bus (.dio 0)], 1) := by decide
/-- B6: the level view of a start from the idle bus. -/
theorem test_levelChanges :
    levelChanges { clk := 1, dio := 1, dir := .output } startSeq = [.dio 0, .clk 0] := by decide

/-! ### The traffic FSM (95 section 6) -/

/-- T4, and T2: a green of 4 seconds. -/
theorem test_tlStart :
    (issue 0xA0000000 State.reset).map (fun s => (s.status, s.tlCnt)) = some (0xE4008000#32, 20) ∧
    (issue 0xA0000000 { State.reset with tlCfgGreen := 4 }).map State.status = some 0xE0000004#32 := by decide
/-- T5: a red of zero seconds is passed through; T8: red and green both lit after a restart. -/
theorem test_tlStart_zero_and_restart :
    (issue 0xA0000000 { running with tlRun := 0, tlCfgRed := 0, tlCfgAmber := 0 }).map row
      = some ⟨.green, 0, 4, [0, 0, 1], [(0, 0), (1, 5)]⟩ ∧
    (issue 0xA0000000 { running with tlPhase := .green, tlCnt := 3, lampG := 1 }).map State.status
      = some 0xF4008000#32 := by decide
/-- T7: stop in blink slot 2, every lamp dark. -/
theorem test_tlStop :
    (issue 0xB0000000 { running with tlPhase := .greenBlink, tlBlink := 2, tlCnt := 1 }).map State.status
      = some 0xE0020000#32 := by decide
/-- T10, and X16. -/
theorem test_tlConfig :
    (issue 0x90000009 redEnding).map (fun s => (s.tlCfgRed, s.tlR, s.tlCnt)) = some (9, 1, 1) ∧
    statusAfter 0x90030005 = some 0xE0000006#32 := by decide
/-- X22. -/
theorem test_tlCbEnable :
    (issue 0xC0000001 State.reset).map (fun s => (s.tlCbEn, s.status)) = some (1, 0xE0000000#32) := by decide
/-- Ticks 2 and 6. -/
theorem test_tick_red_green :
    (turn .tick redEnding).map row = some ⟨.green, 0, 4, [0, 0, 1], [(1, 5)]⟩ ∧
    (turn .tick greenEnding).map row = some ⟨.greenBlink, 0, 1, [0, 0, 1], []⟩ := by decide
/-- Ticks 8, 12 and 14. -/
theorem test_tick_blink_amber :
    (turn .tick slotOne).map row = some ⟨.greenBlink, 2, 1, [0, 0, 0], []⟩ ∧
    (turn .tick slotFive).map row = some ⟨.amber, 5, 2, [0, 1, 0], [(3, 1)]⟩ ∧
    (turn .tick amberEnding).map row = some ⟨.red, 5, 2, [1, 0, 0], [(0, 1)]⟩ := by decide
/-- T6: the chain of zero durations at tick 10. -/
theorem test_tick_zero_chain :
    (turn .tick { slotFive with tlR := 0, tlA := 0 }).map row
      = some ⟨.green, 5, 4, [0, 0, 1], [(3, 0), (0, 0), (1, 5)]⟩ := by decide
/-- F2: the failed write of LAMP_G at tick 2. -/
theorem test_tick_failure :
    (turn .tick { redEnding with pinFaults := [false, true] }).map
        (fun s => (s.lampR, s.tlRun, s.errCode, s.phaseTrace, s.faults))
      = some (0, 0, .pinFailure, [], [.lamp .green 1]) := by decide

/-- F1 and R262: after a recorded failure the state is no final state, not even after a reset. -/
theorem test_final_observation :
    State.reset.finalObservation = some State.reset.observe ∧
    (turn .serial { pending [.clk 0] with pinFaults := [true] }).map (fun s => s.finalObservation) = some none ∧
    (turn .reset { State.reset with faults := [.bus (.clk 0)] }).map (fun s => s.finalObservation) = some none := by decide

/-! ### Reset and illegal words (95 section 7) -/

/-- X1, X3 and X4. -/
theorem test_illegal :
    statusAfter 0x00000000 = some 0xE0000008#32 ∧ statusAfter 0xE0000000 = some 0xE0000008#32 ∧
    statusAfter 0xFFFFFFFF = some 0xE0000008#32 := by decide
/-- STATUS at reset, and F3: reset while a session is in flight. -/
theorem test_reset :
    State.reset.status = 0xE0000000#32 ∧
    (turn .reset { pending [.clk 1] with clkOut := 0, dioOut := 0, port := some 0x50000011 }).map
        (fun s => ((s.q, s.clkOut, s.dioOut, s.dioDir), (s.port, s.status)))
      = some (([], 1, 1, .output), (none, 0xE0000000#32)) := by decide

/-! ### Host pseudo-operations and assembler text (95 section 8, 30_encoding.md R107) -/

/-- H2, H3, H4 and H5. -/
theorem test_number :
    [encodeString defaultParams 0 (numberText (-5)), encodeString defaultParams 0 (numberText 10000),
      encodeString defaultParams 0 (numberText (-1000)), encodeString defaultParams 0 (numberText 0)].map Except.toOption
      = [some [0x00, 0x00, 0x40, 0x6D], some [0x6F, 0x6F, 0x6F, 0x6F], some [0x40, 0x6F, 0x6F, 0x6F],
        some [0x00, 0x00, 0x00, 0x3F]] := by decide
/-- H6, H7, H8 and H9. -/
theorem test_temperature :
    [encodeString defaultParams 0 (temperatureText 24), encodeString defaultParams 0 (temperatureText 5),
      encodeString defaultParams 0 (temperatureText (-9)), encodeString defaultParams 0 (temperatureText (-10)),
      encodeString defaultParams 0 (temperatureText 100)].map Except.toOption
      = [some [0x5B, 0x66, 0x63, 0x39], some [0x00, 0x6D, 0x63, 0x39], some [0x40, 0x6F, 0x63, 0x39],
        some [0x38, 0x3F], some [0x76, 0x06]] := by decide
/-- H10: seven frames and six waits, and frame 3 is the blank, 'a', 'b', blank. -/
theorem test_scroll :
    (scrollFrames [0x61, 0x62]).countP (fun a => decide (a = .pause)) = 6 ∧
    scrollFrame [0x61, 0x62] 3 = [.issue 0x50000000, .issue 0x60010061, .issue 0x60020062, .issue 0x50030000,
      .issue 0x70000004] := by decide
/-- R186: SCROLL of "a!" ends at the ENCODE of '!' with position 1, which STATUS does not show. -/
theorem test_scroll_abort :
    (turn .host { State.reset with
      errCode := .invalidCharacter, errChar := 0x21, hostProg := (scrollProg [0x61, 0x21]).drop 3 }).map
        (fun s => (s.hostProg, s.hostErrors)) = some ([], [{ char := 0x21, position := 1 }]) := by decide
/-- H12: the texts of COUNTDOWN 3, with a wait between consecutive sessions. -/
theorem test_countdown :
    countdownTask 3 = numberProg 3 ++ [.pause] ++ numberProg 2 ++ [.pause] ++ numberProg 1 ++ [.pause] ++ numberProg 0 ∧
    countdownProg (-2) true = [.clear, .spawn (.countdown 0)] ∧
    countdownProg 3 false = [.clear, .spawn (.countdown 3), .join] := by decide
/-- R190 to R192: CLEAR clears the handle and issues nothing; the task goes on in its session and exits at its next wait. -/
theorem test_clear :
    (turn .host { State.reset with
      hostProg := clearProg, hostTask := some { acts := [.issue 0x70000004, .pause, .clockShow], cancelled := false } }).map
        (fun s => (s.taskHandle, s.acts .task, s.port)) = some (false, [.issue 0x70000004, .pause, .clockShow], none) ∧
    (turn .task { State.reset with hostTask := some { acts := [.pause, .clockShow], cancelled := true } }).map
        (fun s => s.hostTask) = some none := by decide
/-- R191: a new task waits until the old one has gone. -/
theorem test_spawn :
    (turn .host { State.reset with
      hostProg := [.spawn .clock], hostTask := some { acts := [.pause], cancelled := true } }).map
        (fun s => s.hostProg) = some [.spawn .clock] ∧
    (turn .host { State.reset with hostProg := [.spawn .clock] }).map (fun s => s.hostTask)
      = some (some { acts := [.pause, .clockShow], cancelled := false }) := by decide
/-- R187: without background the host waits until TL_RUN = 0. -/
theorem test_tlStartWith :
    tlStartWithProg = [.issue 0x9000000A, .issue 0x90010003, .issue 0x9002000A, .issue 0xA0000000] ∧
    (turn .host { running with hostProg := [.waitStopped] }).map (fun s => s.hostProg) = some [.waitStopped] ∧
    (turn .host { State.reset with hostProg := [.waitStopped] }).map (fun s => s.hostProg) = some [] := by decide
/-- H11. -/
theorem test_show :
    (encodeString defaultParams 1 [0x31, 0x32, 0x33, 0x34]).toOption = some [0x86, 0xDB, 0xCF, 0xE6] ∧
    showProg [0x31, 0x32, 0x33, 0x34, 0x35] 0 = none := by decide
/-- The words of P2, P3 and P5 from their texts, and an operand that does not fit its field. -/
theorem test_assemble :
    (assemble "BUS_WRITE" [.num 0x40]).map encode = some 0x40000040#32 ∧
    (assemble "TL_CONFIG" [.green, .num 5]).map encode = some 0x90020005#32 ∧
    (assemble "SEG_LOAD_CHAR" [.num 1, .num 0x43]).map encode = some 0x60010043#32 ∧
    (assemble "SET_SEGMENTS" [.num 2, .num 2]).map encode = some 0x70020002#32 ∧
    assemble "BUS_WRITE" [.num 256] = none := by decide

/-! ### Witnesses: a state and operands that meet the hypotheses of each statement, clause by clause -/

theorem witness_EncodeOfDecode : decode 0x10000161 = .ok (.encodeChar 0x61 1) := by decide

theorem witness_DecodeFollowsOpcodeMap :
    (∃ r ∈ opcodeRows, 0x50050011#32 &&& r.mask = r.pattern) ∧ (∀ r ∈ opcodeRows, 0x50080011#32 &&& r.mask ≠ r.pattern) ∧
    (∃ r ∈ opcodeRows, ∃ r' ∈ opcodeRows, 0x50050011#32 &&& r.mask = r.pattern ∧ 0x50050011#32 &&& r'.mask = r'.pattern) := by
  decide

theorem witness_ReservedOpIsIllegalAtOnce :
    opOf 0x00000000 = 0x0 ∧ opOf 0xD0000000 = 0xD ∧ opOf 0xE0000000 = 0xE ∧ opOf 0xFFFFFFFF = 0xF := by decide

/-- The lowest and the highest OP, a serial one with Q empty and not, and a word with no reserved bit set. -/
theorem witness_ReservedBitsAreIllegal :
    (opOf 0x10000200).toNat = 1 ∧ 0x10000200#32 &&& reservedZeroBits 0x1 ≠ 0 ∧
    (opOf 0xC0000002).toNat = 12 ∧ 0xC0000002#32 &&& reservedZeroBits 0xC ≠ 0 ∧
    (opOf 0x50080011).toNat = 5 ∧ 0x50080011#32 &&& reservedZeroBits 0x5 ≠ 0 ∧ busyHeld.q ≠ [] ∧ State.reset.q = [] ∧
    0x50070011#32 &&& reservedZeroBits 0x5 = 0 := by decide

theorem witness_StepRunsDecodedCommand :
    decode 0x10000061 = .ok (.encodeChar 0x61 0) ∧
    (({ State.reset with turns := [.task], port := some 0xD0000000 } : State).turns = HostThread.task.turn :: [] ∧
      ({ State.reset with turns := [.task], port := some 0xD0000000 } : State).port = some 0xD0000000 ∧
      ({ State.reset with turns := [.task], port := some 0xD0000000 } : State).holds 0xD0000000 = false) ∧
    (({ busyHeld with turns := [.host] } : State).turns = HostThread.caller.turn :: [] ∧
      busyHeld.port = some 0x50000011 ∧ busyHeld.holds 0x50000011 = true ∧
      ({ busyHeld with turns := [.host], hostProg := [.issue 0xB0000000] } : State).acts .caller
        = .issue 0xB0000000 :: []) ∧
    (({ State.reset with turns := [.host], hostProg := [.issue 0x10000061] } : State).turns = .host :: [] ∧
      ({ State.reset with turns := [.host], hostProg := [.issue 0x10000061] } : State).port = none ∧
      ({ State.reset with turns := [.host], hostProg := [.issue 0x10000061] } : State).hostProg
        = .issue 0x10000061 :: []) ∧
    (({ State.reset with
        turns := [.task], hostTask := some { acts := [.issue 0x10000061], cancelled := false } } : State).hostTask
      = some { acts := .issue 0x10000061 :: [], cancelled := false }) ∧
    tableWord 32 0x10000061 = 0x10000061 := by decide

/-- A fault: a running cycle with a count of 0; with green below 5; with blink slot 6. -/
theorem witness_StepFaultsOnlyAtOutOfRangeTick :
    (match step { redEnding with tlCnt := 0, turns := [.tick] } with | .fault f => some f | _ => none)
      = some .trafficOutOfRange ∧
    (match step { redEnding with tlG := 4, turns := [.tick] } with | .fault f => some f | _ => none)
      = some .trafficOutOfRange ∧
    (match step { slotFive with tlBlink := 6, turns := [.tick] } with | .fault f => some f | _ => none)
      = some .trafficOutOfRange := by decide

/-- A read with the port free, the caller's beside its own held word, and a check beside a word that is not the thread's and
beside one that is. -/
theorem witness_StatusLayout :
    HostAct.waitStopped.readsStatus = true ∧ State.reset.port = none ∧
    (({ busyHeld with turns := [.host], hostProg := [.waitIdle] } : State).turns = HostThread.caller.turn :: [] ∧
      ({ busyHeld with turns := [.host], hostProg := [.waitIdle] } : State).acts .caller = .waitIdle :: [] ∧
      HostAct.waitIdle.readsStatus = true ∧ HostAct.waitIdle.checksResult = false ∧
      busyHeld.port = some 0x50000011 ∧ busyHeld.holds 0x50000011 = true) ∧
    ((HostAct.abandonOnError 1 none).readsStatus = true ∧ busyHeld.portThread ≠ .task) ∧
    (({ busyHeld with turns := [.host], hostProg := [.abandonOnError 1 none] } : State).acts .caller
        = .abandonOnError 1 none :: [] ∧ busyHeld.portThread = .caller) := by decide

theorem witness_ResetStepLeavesResetValues :
    ({ busyHeld with turns := [.reset, .host] } : State).turns = .reset :: [.host] ∧
    ({ busyHeld with turns := [.reset, .host] } : State).IsMbpe := ⟨rfl, rfl⟩

theorem witness_RomNeverChanges : ∃ t, step { busyHeld with turns := [.serial] } = .next t := ⟨_, rfl⟩

theorem witness_FaultRecordAndTracesOnlyGrow :
    (∃ t, step { busyHeld with turns := [.serial], pinFaults := [true] } = .next t) ∧
    (∃ t, step { busyHeld with turns := [.reset], faults := [.bus (.clk 0)] } = .next t) ∧
    ({ busyHeld with turns := [.reset], faults := [.bus (.clk 0)] } : State).faults ≠ [] :=
  ⟨⟨_, rfl⟩, ⟨_, rfl⟩, by decide⟩

theorem witness_OnlySuccessfulEncodeWritesResult :
    (∃ t, exec (.encodeChar 0x61 0) State.reset = .next t) ∧
    (∃ t, step { busyHeld with turns := [.serial] } = .next t) ∧ (∃ t, step { redEnding with turns := [.tick] } = .next t) ∧
    (∃ t, step { State.reset with turns := [.host], hostProg := [.waitIdle] } = .next t) ∧
    (∃ t, step { State.reset with turns := [.task] } = .next t) ∧
    decode 0xD0000000 = .error (.reservedOp 0xD) ∧ (∃ t, presentWord 0xD0000000 State.reset = .next t) ∧
    State.reset.turns = [] ∧ (∃ t, step State.reset = .next t) :=
  ⟨⟨_, rfl⟩, ⟨_, rfl⟩, ⟨_, rfl⟩, ⟨_, rfl⟩, ⟨_, rfl⟩, by decide, ⟨_, rfl⟩, rfl, ⟨_, rfl⟩⟩

theorem witness_OnlyBusStepsWritePins :
    (∃ t, step { redEnding with turns := [.tick] } = .next t) ∧
    (∃ t, step { State.reset with turns := [.host], port := some 0x10000061 } = .next t) ∧
    Turn.tick ≠ .serial ∧ Turn.tick ≠ .reset ∧ Turn.host ≠ .serial ∧ Turn.host ≠ .reset :=
  ⟨⟨_, rfl⟩, ⟨_, rfl⟩, by decide, by decide, by decide, by decide⟩

theorem witness_SerialAndTrafficAreDisjoint :
    isSerialInstr (.setSegments 0 6) = true ∧ (∃ t, exec (.setSegments 0 6) State.reset = .next t) ∧
    isSerialInstr .tlStart = false ∧ (∃ t, exec .tlStart State.reset = .next t) ∧ (∃ t, tick redEnding = .next t) :=
  ⟨rfl, ⟨_, rfl⟩, rfl, ⟨_, rfl⟩, ⟨_, rfl⟩⟩

theorem witness_EncodeWritesResultOrReportsCharacter :
    encodePattern defaultParams 0x20 1 = some 0x80 ∧ encodePattern defaultParams 0x21 0 = none ∧
    opOf 0x10000261 = 0x1 ∧ 0x10000261#32 &&& 0x0FFFFE00 ≠ 0 ∧ (isSerialWord 0x10000261 && busyHeld.busy) = false := by decide

theorem witness_BusStartQueuesStartSequence :
    State.reset.q = [] ∧ State.reset.NoFaultRecorded ∧ State.reset.pinsAnswerOk = true ∧
    opOf 0x20000001 = 0x2 ∧ 0x20000001#32 &&& 0x0FFFFFFF ≠ 0 ∧ (isSerialWord 0x20000001 && State.reset.busy) = false ∧
    (busSteps 3 { pending startSeq with pinFaults := [false, false, false, true] }).q ≠ [] ∧
    (busSteps 3 { pending startSeq with pinFaults := [false, false, false, true] }).pinFault = true := by decide

theorem witness_BusStopQueuesStopSequence :
    State.reset.q = [] ∧ State.reset.NoFaultRecorded ∧ State.reset.pinsAnswerOk = true ∧
    opOf 0x30000100 = 0x3 ∧ 0x30000100#32 &&& 0x0FFFFFFF ≠ 0 ∧ (isSerialWord 0x30000100 && State.reset.busy) = false ∧
    (busSteps 0 { pending stopSeq with pinFaults := [true] }).q ≠ [] ∧
    (busSteps 0 { pending stopSeq with pinFaults := [true] }).pinFault = true := by decide

theorem witness_BusWriteQueuesByteSequence :
    State.reset.q = [] ∧ State.reset.NoFaultRecorded ∧ State.reset.pinsAnswerOk = true ∧ State.reset.params.ackSeq = defaultAckSeq ∧
    opOf 0x40000140 = 0x4 ∧ 0x40000140#32 &&& 0x0FFFFF00 ≠ 0 ∧ (isSerialWord 0x40000140 && State.reset.busy) = false ∧
    (busSteps 1 { pending (byteSeq defaultParams 0x40) with pinFaults := [false, true] }).q ≠ [] ∧
    (busSteps 1 { pending (byteSeq defaultParams 0x40) with pinFaults := [false, true] }).pinFault = true := by decide

/-- The last entry and the first index past it. -/
theorem witness_SegLoadWritesOneEntry :
    State.reset.IsMbpe ∧ State.reset.q = [] ∧ (5 : BitVec 3).toNat < 6 ∧ 6 ≤ (6 : BitVec 3).toNat ∧ 6 ≤ (7 : BitVec 3).toNat ∧
    opOf 0x50080011 = 0x5 ∧ 0x50080011#32 &&& 0x0FF8FF00 ≠ 0 ∧ (isSerialWord 0x50080011 && State.reset.busy) = false := by
  decide

theorem witness_SegLoadCharWritesEncodedEntry :
    State.reset.IsMbpe ∧ State.reset.q = [] ∧ (5 : BitVec 3).toNat < 6 ∧ encodePattern defaultParams 0x43 0 = some 0x39 ∧
    encodePattern defaultParams 0x40 0 = none ∧ 6 ≤ (6 : BitVec 3).toNat ∧
    opOf 0x60000221 = 0x6 ∧ 0x60000221#32 &&& 0x0FF8FE00 ≠ 0 ∧ (isSerialWord 0x60000221 && State.reset.busy) = false := by
  decide

theorem witness_SetBrightnessWritesLevel :
    State.reset.IsMbpe ∧ State.reset.q = [] ∧ (5 : BitVec 4).toNat ≤ 5 ∧ (5 : BitVec 4).toNat + (1 : BitVec 4).toNat ≤ 6 ∧
    opOf 0x80000008 = 0x8 ∧ 0x80000008#32 &&& 0x0FFFFFF8 ≠ 0 ∧ (isSerialWord 0x80000008 && State.reset.busy) = false := by
  decide

/-- ADDR 5 with N 1 is the last that fits; ADDR 6 with N 0 and ADDR 1 with N 6 are the first that do not. -/
theorem witness_SetSegmentsQueuesSession :
    State.reset.IsMbpe ∧ State.reset.q = [] ∧ (5 : BitVec 4).toNat ≤ 5 ∧ (5 : BitVec 4).toNat + (1 : BitVec 4).toNat ≤ 6 ∧
    5 < (6 : BitVec 4).toNat ∧ 6 < (1 : BitVec 4).toNat + (6 : BitVec 4).toNat ∧
    State.reset.params.ackSeq = defaultAckSeq ∧ State.reset.NoFaultRecorded ∧ State.reset.pinsAnswerOk = true ∧
    opOf 0x70100000 = 0x7 ∧ 0x70100000#32 &&& 0x0FF0FFF0 ≠ 0 ∧ (isSerialWord 0x70100000 && State.reset.busy) = false := by
  decide

theorem witness_TlConfigWritesOneDuration :
    State.reset.IsMbpe ∧ opOf 0x90000105 = 0x9 ∧ 0x90000105#32 &&& 0x0FFCFF00 ≠ 0 ∧ (isSerialWord 0x90000105 && busyHeld.busy) = false := by decide

theorem witness_TlCbEnableWritesEnable :
    opOf 0xC0000002 = 0xC ∧ 0xC0000002#32 &&& 0x0FFFFFFE ≠ 0 ∧ (isSerialWord 0xC0000002 && busyHeld.busy) = false := by decide

theorem witness_TlStopCancelsAtOnce :
    opOf 0xB0000001 = 0xB ∧ 0xB0000001#32 &&& 0x0FFFFFFF ≠ 0 ∧ (isSerialWord 0xB0000001 && busyHeld.busy) = false := by decide

/-- Green of 4 and of 5 seconds, red of 0 and of 1 second, and a failure of the first, second or third lamp write. -/
theorem witness_TlStartValidatesAndEntersRed :
    running.IsMbpe ∧ State.reset.IsMbpe ∧
    ({ State.reset with tlCfgGreen := 4 } : State).tlCfgGreen.toNat ≤ 4 ∧ 4 < running.tlCfgGreen.toNat ∧
    running.tlCfgRed ≠ 0 ∧ ({ running with tlCfgRed := 0 } : State).tlCfgRed = 0 ∧
    (running.answer 0 = false ∧ running.answer 1 = false ∧ running.answer 2 = false) ∧
    ({ running with pinFaults := [true] } : State).answer 0 = true ∧
    (({ running with pinFaults := [false, true] } : State).answer 0 = false ∧
      ({ running with pinFaults := [false, true] } : State).answer 1 = true) ∧
    (({ running with pinFaults := [false, false, true] } : State).answer 1 = false ∧
      ({ running with pinFaults := [false, false, true] } : State).answer 2 = true) ∧
    opOf 0xA0000001 = 0xA ∧ 0xA0000001#32 &&& 0x0FFFFFFF ≠ 0 ∧ (isSerialWord 0xA0000001 && busyHeld.busy) = false := by decide

theorem witness_SerialCommandsHeldWhileBusy :
    isSerialWord 0x50000011 = true ∧ busyHeld.q ≠ [] ∧ isSerialWord 0x10000061 = false ∧ State.reset.q = [] := by decide

theorem witness_FailingCommandIsPrecise :
    acceptedNow (.segLoadChar 5 0x40 0) State.reset = true ∧
    (answer (exec (.segLoadChar 5 0x40 0) State.reset)).map (fun t => t.errCode) = some .invalidCharacter ∧
    (answer (exec (.encodeChar 0x21 0) busyHeld)).map (fun t => t.errCode) = some .invalidCharacter ∧
    (answer (exec (.setSegments 6 0) State.reset)).map (fun t => t.errCode) = some .invalidArgument ∧
    decode 0xD0000000 = .error (.reservedOp 0xD) ∧ (isSerialWord 0xD0000000 && busyHeld.busy) = false := by decide

theorem witness_ErrorPriority :
    State.reset.IsMbpe ∧
    decode 0x50080011 = .error (.reservedBits 5) ∧ (isSerialWord 0x50080011 && State.reset.busy) = false ∧
    decode 0x60070021 = .ok (.segLoadChar 7 0x21 0) ∧ acceptedNow (.segLoadChar 7 0x21 0) State.reset = true ∧
    ¬ Instr.WellFormed (.segLoadChar 7 0x21 0) ∧ Instr.WellFormed (.segLoadChar 5 0x21 0) ∧ charIndex 0x21 = none ∧
    ({ State.reset with tlCfgGreen := 4 } : State).tlCfgGreen.toNat ≤ 4 ∧ charIndex 0x61 ≠ none ∧
    4 < State.reset.tlCfgGreen.toNat := by decide

theorem witness_InvalidCharacterBeforeBusActivity :
    acceptedNow (.segLoadChar 1 0x21 0) State.reset = true ∧ acceptedNow (.encodeChar 0x21 0) busyHeld = true ∧
    (answer (exec (.segLoadChar 1 0x21 0) State.reset)).map (fun t => t.errCode) = some .invalidCharacter ∧
    (answer (exec (.encodeChar 0x21 0) busyHeld)).map (fun t => t.errCode) = some .invalidCharacter := by decide

theorem witness_LettersFoldCase : 0x41 ≤ (0x5A : Byte).toNat ∧ (0x5A : Byte).toNat ≤ 0x5A := by decide

theorem witness_EncodeFunction : charIndex 0x40 = none ∧ charIndex 0x2A = some 38 := by decide

/-- Q empty; each kind of event performed; an event that fails. -/
theorem witness_BusStepPerformsHead :
    ({ pending [] with turns := [.serial] } : State).q = [] ∧
    ({ pending [.clk 0] with turns := [.serial] } : State).q = .clk 0 :: [] ∧
    ({ pending [.dio 0] with turns := [.serial] } : State).q = .dio 0 :: [] ∧
    ({ pending [.dir .input] with turns := [.serial] } : State).q = .dir .input :: [] ∧
    ({ pending [.clk 0] with turns := [.serial] } : State).pinFault = false ∧
    ({ pending [.clk 0] with turns := [.serial], pinFaults := [true] } : State).pinFault = true ∧
    ({ pending [.clk 0] with turns := [.serial], pinFaults := [true] } : State).turns = .serial :: [] := by decide

theorem witness_BusStepFailureDiscardsQueue :
    ({ pending [.dio 0, .clk 1] with turns := [.serial], pinFaults := [true] } : State).turns = .serial :: [] ∧
    ({ pending [.dio 0, .clk 1] with turns := [.serial], pinFaults := [true] } : State).q = .dio 0 :: [.clk 1] ∧
    ({ pending [.dio 0, .clk 1] with turns := [.serial], pinFaults := [true] } : State).pinFault = true := by decide

theorem witness_BusStepsDrainQueueInOrder :
    (pending startSeq).NoFaultRecorded ∧ (pending startSeq).pinsAnswerOk = true ∧ (pending startSeq).q ≠ [] := by decide

theorem witness_EventCounts : defaultParams.ackSeq.length = 5 := by decide

theorem witness_ByteFrameCarriesByte : defaultParams.ackSeq = defaultAckSeq ∧ State.reset.pins.dir = .output := by decide

theorem witness_SessionCarriesItsBytes :
    defaultParams.ackSeq = defaultAckSeq ∧ State.reset.pins.clk = 1 ∧ State.reset.pins.dir = .output := by decide

/-- The idle bus, and the latches after a start condition (B1). -/
theorem witness_LineDiscipline :
    defaultParams.ackSeq = defaultAckSeq ∧ State.reset.pins.dir = .output ∧ State.reset.pins.dio = 1 ∧
    (performEvents State.reset.pins startSeq).clk = 0 ∧ (performEvents State.reset.pins startSeq).dir = .output := by decide

/-- A command that appends its session, and a held one that appends nothing. -/
theorem witness_CommittedOutputGrowsByWholeCommands :
    (issue 0x70000000 State.reset).map (fun t => t.faults) = some [] ∧
    (issue 0x50000011 busyHeld).map (fun t => t.faults) = some [] ∧ Turn.host ≠ .reset := by decide

/-- D5's operands: ADDR 5, N 1. -/
theorem witness_SetSegmentsCompletesSession :
    ({ State.reset with
        port := some (encode (.setSegments 5 1)), turns := .host :: (List.replicate 140 .serial ++ []) } : State).turns
      = .host :: (List.replicate (111 + 29 * (1 : BitVec 4).toNat) .serial ++ []) ∧
    State.reset.NoFaultRecorded ∧ State.reset.IsMbpe ∧ State.reset.params.ackSeq = defaultAckSeq ∧ State.reset.q = [] ∧
    State.reset.pinsAnswerOk = true ∧ (5 : BitVec 4).toNat ≤ 5 ∧ (5 : BitVec 4).toNat + (1 : BitVec 4).toNat ≤ 6 := by
  refine ⟨rfl, ?_⟩; decide

/-- A stopped FSM, and a running one with two TICKs left. -/
theorem witness_TickCountsDown :
    State.reset.tlRun = 0 ∧ ({ redEnding with tlCnt := 2 } : State).tlRun = 1 ∧
    ({ redEnding with tlCnt := 2 } : State).Inv ∧ 1 < ({ redEnding with tlCnt := 2 } : State).tlCnt.toNat := by decide

theorem witness_PhaseTransitions :
    (redEnding.IsMbpe ∧ greenEnding.IsMbpe ∧ slotOne.IsMbpe ∧ slotFive.IsMbpe ∧ amberEnding.IsMbpe) ∧
    (redEnding.tlRun = 1 ∧ redEnding.tlCnt = 1 ∧ redEnding.pinsAnswerOk = true ∧ 5 ≤ redEnding.tlG.toNat ∧
      redEnding.tlPhase = .red) ∧
    (greenEnding.tlRun = 1 ∧ greenEnding.tlCnt = 1 ∧ greenEnding.tlPhase = .green) ∧
    (slotOne.tlCnt = 1 ∧ slotOne.tlPhase = .greenBlink ∧ slotOne.tlBlink.toNat ≤ 4) ∧
    (slotFive.tlCnt = 1 ∧ slotFive.tlPhase = .greenBlink ∧ slotFive.tlBlink = 5 ∧ slotFive.tlA ≠ 0) ∧
    (amberEnding.tlCnt = 1 ∧ amberEnding.tlPhase = .amber ∧ amberEnding.tlR ≠ 0) := by decide

theorem witness_ZeroDurationPhasesPassThrough :
    (amberEnding.IsMbpe ∧ slotFive.IsMbpe) ∧
    (({ amberEnding with tlR := 0 } : State).tlPhase = .amber ∧ ({ amberEnding with tlR := 0 } : State).tlR = 0) ∧
    (({ slotFive with tlA := 0 } : State).tlBlink = 5 ∧ ({ slotFive with tlA := 0 } : State).tlA = 0 ∧
      ({ slotFive with tlA := 0 } : State).tlR ≠ 0) ∧
    (({ slotFive with tlA := 0, tlR := 0 } : State).tlA = 0 ∧ ({ slotFive with tlA := 0, tlR := 0 } : State).tlR = 0 ∧
      ({ slotFive with tlA := 0, tlR := 0 } : State).pinsAnswerOk = true ∧
      5 ≤ ({ slotFive with tlA := 0, tlR := 0 } : State).tlG.toNat) := by decide

theorem witness_LampFailureCutsStep :
    State.reset.pinFault = false ∧ ({ State.reset with pinFaults := [true] } : State).pinFault = true ∧
    redEnding.IsMbpe ∧ redEnding.tlRun = 1 ∧ redEnding.tlCnt = 1 ∧ redEnding.tlPhase = .red ∧ 5 ≤ redEnding.tlG.toNat ∧
    ({ redEnding with pinFaults := [true] } : State).answer 0 = true ∧
    ({ redEnding with pinFaults := [false, true] } : State).answer 0 = false ∧
    ({ redEnding with pinFaults := [false, true] } : State).answer 1 = true := by decide

theorem witness_RepeatedCommandsAreIdempotent :
    acceptedNow (.segLoadChar 5 0x40 0) State.reset = true ∧ acceptedNow .tlStop busyHeld = true ∧
    (answer (exec (.segLoadChar 5 0x40 0) State.reset)).isSome = true := by decide

theorem witness_NotificationDoesNotDisturbCycle :
    (answer (tick { redEnding with tlCbEn := 0 })).map (fun t => t.phaseTrace) = some [] := by decide

theorem witness_TickKeepsOnlyPhaseLampLit :
    (State.reset.IsMbpe ∧ State.reset.pinsAnswerOk = true ∧ 4 < State.reset.tlCfgGreen.toNat ∧ State.reset.lampR = 0 ∧
      State.reset.lampA = 0 ∧ State.reset.lampG = 0) ∧ slotFive.IsMbpe ∧
    slotFive.tlRun = 1 ∧ slotFive.pinsAnswerOk = true ∧ slotFive.onlyPhaseLamp = true ∧
    (answer (tick slotFive)).map (fun t => t.tlPhase) = some .amber := by decide

/-- Tick 2 of the 1/1/5 timeline, with 14 TICKs scheduled. -/
theorem witness_CycleRepeats :
    ({ greenEnding with tlCnt := 4, turns := List.replicate 14 .tick ++ [] } : State).turns
      = List.replicate (2 * (greenEnding.tlR.toNat + greenEnding.tlG.toNat + greenEnding.tlA.toNat)) .tick ++ [] ∧
    greenEnding.NoFaultRecorded ∧ greenEnding.IsMbpe ∧ greenEnding.tlRun = 1 ∧ greenEnding.tlPhase = .green ∧ 5 ≤ greenEnding.tlG.toNat ∧
    BitVec.ofNat 9 (2 * (greenEnding.tlG.toNat - 3)) = 4 ∧ greenEnding.pinsAnswerOk = true := by decide

theorem witness_StepKeepsInvariant :
    redEnding.Inv ∧ slotFive.Inv ∧ (answer (step { redEnding with turns := [.tick] })).isSome = true ∧
    ({ redEnding with turns := [.tick] } : State).Inv := by decide

theorem witness_InvariantStepsNeverStop : busyHeld.Inv ∧ amberEnding.Inv := by decide

theorem witness_BusStepAndTickCommute :
    ({ redEnding with q := [.clk 0, .dio 1] } : State).NoFaultRecorded ∧
    ({ redEnding with q := [.clk 0, .dio 1] } : State).pinsAnswerOk = true := by decide

theorem witness_NumberTextFitsDisplay :
    (-999 : Int) ≤ -999 ∧ (-999 : Int) ≤ 9999 ∧ (9999 : Int) ≤ 9999 ∧ (9999 : Int) ≤ 10000 ∧ (-1000 : Int) ≤ -999 := by decide

/-- The text "hi" at address 4, the last that fits it. -/
theorem witness_TextSessionQueuesEncodedText :
    State.reset.NoFaultRecorded ∧ State.reset.IsMbpe ∧
    (4 : BitVec 4).toNat ≤ 5 ∧ (4 : BitVec 4).toNat + [0x68, 0x69].length ≤ 6 ∧ State.reset.q = [] ∧
    State.reset.port = none ∧ List.replicate 5 Turn.host = List.replicate (2 * [0x68, 0x69].length + 1) .host ++ [] ∧
    (encodeString State.reset.params 0 [0x68, 0x69]).toOption = some [0x76, 0x06] := by decide

/-- The text "H!" of P4: invalid at position 1, for a session and for a scroll. -/
theorem witness_TextSessionAbandonsInvalidText :
    State.reset.NoFaultRecorded ∧ State.reset.IsMbpe ∧ [0x48, 0x21].length ≤ 6 ∧ State.reset.q = [] ∧ State.reset.port = none ∧
    List.replicate 4 Turn.host = List.replicate (2 * 1 + 2) .host ++ [] ∧
    (match encodeString State.reset.params 0 [0x48, 0x21] with | .error e => some e | .ok _ => none)
      = some (0x21, 1) := by decide

end Sys2Proof.Tests
end

section
/-! SUPPORT. What a command, an agent's turn and a step can change: one frame per operation, from which the invariants of
10_state.md follow. -/

namespace Sys2Proof.Machine

/-! ### What every step keeps -/

/-- From `s` to `t` the parameters stay and the fault record and the two traces keep all they held
(10_state.md R44, R54). -/
structure Grows (s t : State) : Prop where
  params : t.params = s.params
  faults : s.faults <+: t.faults
  wireTrace : s.wireTrace <+: t.wireTrace
  phaseTrace : s.phaseTrace <+: t.phaseTrace

theorem Grows.of_eq {s t : State} (hp : t.params = s.params) (hf : t.faults = s.faults)
    (hw : t.wireTrace = s.wireTrace) (he : t.phaseTrace = s.phaseTrace) : Grows s t :=
  ⟨hp, hf ▸ List.prefix_rfl, hw ▸ List.prefix_rfl, he ▸ List.prefix_rfl⟩

theorem Grows.trans {s t u : State} (h : Grows s t) (h' : Grows t u) : Grows s u :=
  ⟨h'.params.trans h.params, h.faults.trans h'.faults, h.wireTrace.trans h'.wireTrace, h.phaseTrace.trans h'.phaseTrace⟩

/-! ### Actions of the traffic FSM -/

/-- What the actions of a TICK, or those of a TL_START after its latching, can make of `s` (43_traffic_light.md R216 to
R223, R229): they write the fields named here only, and append to the fault record and the phase-event trace. -/
structure TrafficMove (s t : State) : Prop where
  frame : t = { s with
    tlRun := t.tlRun, tlPhase := t.tlPhase, tlCnt := t.tlCnt, tlBlink := t.tlBlink, lampR := t.lampR,
    lampA := t.lampA, lampG := t.lampG, errCode := t.errCode, phaseTrace := t.phaseTrace, faults := t.faults,
    pinFaults := t.pinFaults, draws := t.draws }
  faults : s.faults <+: t.faults
  phaseTrace : s.phaseTrace <+: t.phaseTrace

theorem TrafficMove.refl (s : State) : TrafficMove s s := ⟨rfl, List.prefix_rfl, List.prefix_rfl⟩

theorem TrafficMove.trans {s t u : State} (h : TrafficMove s t) (h' : TrafficMove t u) : TrafficMove s u :=
  ⟨h'.frame.trans (by rw [h.frame]), h.faults.trans h'.faults, h.phaseTrace.trans h'.phaseTrace⟩

theorem TrafficMove.result {s t : State} (h : TrafficMove s t) : t.result = s.result := by rw [h.frame]

theorem TrafficMove.grows {s t : State} (h : TrafficMove s t) : Grows s t :=
  ⟨by rw [h.frame], h.faults, by rw [h.frame], h.phaseTrace⟩

/-- The announcement of a phase, with the phase and its count registered. -/
theorem announce_move (s : State) (p : Phase) (d : Byte) (cnt : BitVec 9) :
    TrafficMove s { s.notify p d with tlPhase := p, tlCnt := cnt } := by
  rw [State.notify_eq]
  exact ⟨rfl, List.prefix_rfl, List.prefix_append _ _⟩

theorem setLamp_move (s : State) (l : Lamp) (b : Bit) : TrafficMove s (s.takeAnswer.setLamp l b) := by
  cases l <;> exact ⟨rfl, List.prefix_rfl, List.prefix_rfl⟩

theorem lampFailure_move (s : State) (l : Lamp) (b : Bit) : TrafficMove s (s.takeAnswer.lampFailure l b) := by
  cases l <;> exact ⟨rfl, List.prefix_append _ _, List.prefix_rfl⟩

/-- A lamp write is a move if the actions after it are one, whether it fails or not. -/
theorem lampWrite_move {rest : State → State} (hrest : ∀ s, TrafficMove s (rest s)) (l : Lamp) (b : Bit) (s : State) :
    TrafficMove s (lampWrite l b rest s) :=
  lampWrite_induct s l b rest (lampFailure_move s l b) ((setLamp_move s l b).trans (hrest _))

theorem enterGreen_move (s : State) : TrafficMove s (enterGreen s) := lampWrite_move (fun s => announce_move s ..) ..

theorem leaveRed_move (s : State) : TrafficMove s (leaveRed s) := lampWrite_move enterGreen_move ..

theorem redEntered_move (s : State) : TrafficMove s (redEntered s) := by
  unfold redEntered
  dsimp only
  split
  · exact (announce_move s ..).trans (leaveRed_move _)
  · exact announce_move s ..

theorem enterRed_move (s : State) : TrafficMove s (enterRed s) := lampWrite_move redEntered_move ..

theorem leaveAmber_move (s : State) : TrafficMove s (leaveAmber s) := lampWrite_move enterRed_move ..

theorem amberEntered_move (s : State) : TrafficMove s (amberEntered s) := by
  unfold amberEntered
  dsimp only
  split
  · exact (announce_move s ..).trans (leaveAmber_move _)
  · exact announce_move s ..

theorem enterAmber_move (s : State) : TrafficMove s (enterAmber s) := lampWrite_move amberEntered_move ..

theorem leaveGreen_move (s : State) : TrafficMove s (leaveGreen s) := ⟨rfl, List.prefix_rfl, List.prefix_rfl⟩

theorem nextBlinkSlot_move (s : State) : TrafficMove s (nextBlinkSlot s) := by
  unfold nextBlinkSlot
  split
  · exact enterAmber_move s
  · exact ⟨rfl, List.prefix_rfl, List.prefix_rfl⟩

theorem blinkSlotEnd_move (s : State) : TrafficMove s (blinkSlotEnd s) := lampWrite_move nextBlinkSlot_move ..

theorem waitEnd_move (s : State) : TrafficMove s (waitEnd s) := by
  unfold waitEnd
  split
  · exact leaveRed_move s
  · exact leaveGreen_move s
  · exact blinkSlotEnd_move s
  · exact leaveAmber_move s

theorem setCnt_move (s : State) (cnt : BitVec 9) : TrafficMove s { s with tlCnt := cnt } :=
  ⟨rfl, List.prefix_rfl, List.prefix_rfl⟩

theorem runningTick_move (s : State) : TrafficMove s (runningTick s) := by
  by_cases h : s.tlCnt - 1#9 = 0#9
  · rw [runningTick_ends h]
    exact (setCnt_move s _).trans (waitEnd_move _)
  · rw [runningTick_waiting h]
    exact setCnt_move s _

/-- Whatever a TICK answers, it is a move of the FSM. -/
theorem tick_move {s t : State} (e : tick s = .next t) : TrafficMove s t := by
  obtain ⟨-, h⟩ | ⟨-, -, h⟩ | ⟨-, -, h⟩ := tick_cases s
  · cases h.symm.trans e; exact .refl s
  · cases h.symm.trans e; exact runningTick_move s
  · cases h.symm.trans e

/-! ### The bus step -/

/-- A bus step writes the serial engine, the answers and the error report, and nothing else (41_serial_bus.md R141,
R159). -/
theorem busStep_frame (s : State) : busStep s = { s with
    clkOut := (busStep s).clkOut, dioOut := (busStep s).dioOut, dioDir := (busStep s).dioDir,
    q := (busStep s).q, errCode := (busStep s).errCode, wireTrace := (busStep s).wireTrace,
    faults := (busStep s).faults, pinFaults := (busStep s).pinFaults, draws := (busStep s).draws } := by
  obtain ⟨-, h⟩ | ⟨e, rest, -, ⟨-, h⟩ | ⟨-, h⟩⟩ := busStep_cases s <;> rw [h] <;> rfl

theorem busStep_result (s : State) : (busStep s).result = s.result := by rw [busStep_frame]

theorem busStep_grows (s : State) : Grows s (busStep s) := by
  obtain ⟨-, h⟩ | ⟨e, rest, -, ⟨-, h⟩ | ⟨-, h⟩⟩ := busStep_cases s <;> rw [h]
  · exact .of_eq rfl rfl rfl rfl
  · exact ⟨rfl, List.prefix_append _ _, List.prefix_append _ _, List.prefix_rfl⟩
  · exact ⟨rfl, List.prefix_rfl, List.prefix_append _ _, List.prefix_rfl⟩

/-! ### Commands -/

/-- What an accepted command does to the state after its acceptance. -/
def commandEffect (i : Instr) (s : State) : State :=
  match i with
  | .encodeChar char point => encodeEffect char point s
  | .busStart => (s.enqueue startSeq).succeed
  | .busStop => (s.enqueue stopSeq).succeed
  | .busWrite byte => (s.enqueue (byteSeq s.params byte)).succeed
  | .segLoad idx byte => segLoadEffect idx byte s
  | .segLoadChar idx char point => segLoadCharEffect idx char point s
  | .setSegments addr n => setSegmentsEffect addr n s
  | .setBrightness level => ({ s with bright := level }).succeed
  | .tlConfig sel value => tlConfigEffect sel value s
  | .tlStart => tlStartEffect s
  | .tlStop => ({ s with tlRun := 0#1 }).succeed
  | .tlCbEnable en => ({ s with tlCbEn := en }).succeed

/-- A command is held, if it is of the serial class and the engine is busy, and else accepted and performed
(41_serial_bus.md R142). -/
theorem exec_eq (i : Instr) (s : State) : exec i s =
    if isSerialInstr i && s.busy then .next (s.hold (encode i)) else .next (commandEffect i s.accept) := by
  cases i <;> rfl

/-- Everything the issue of a command can answer. -/
theorem exec_cases {i : Instr} {s t : State} (e : exec i s = .next t) :
    ((isSerialInstr i && s.busy) = true ∧ t = s.hold (encode i)) ∨
    ((isSerialInstr i && s.busy) = false ∧ t = commandEffect i s.accept) := by
  rw [exec_eq] at e
  split at e
  · next h => cases e; exact .inl ⟨h, rfl⟩
  · next h => cases e; exact .inr ⟨by simpa using h, rfl⟩

theorem encodeEffect_frame (char : Byte) (point : Bit) (s : State) : encodeEffect char point s = { s with
    result := (encodeEffect char point s).result, errCode := (encodeEffect char point s).errCode,
    errChar := (encodeEffect char point s).errChar, errPos := (encodeEffect char point s).errPos } := by
  unfold encodeEffect; split <;> rfl

theorem segLoadEffect_frame (idx : BitVec 3) (byte : Byte) (s : State) : segLoadEffect idx byte s = { s with
    segBuf := (segLoadEffect idx byte s).segBuf, errCode := (segLoadEffect idx byte s).errCode } := by
  unfold segLoadEffect; split <;> rfl

theorem segLoadCharEffect_frame (idx : BitVec 3) (char : Byte) (point : Bit) (s : State) :
    segLoadCharEffect idx char point s = { s with
      segBuf := (segLoadCharEffect idx char point s).segBuf, errCode := (segLoadCharEffect idx char point s).errCode,
      errChar := (segLoadCharEffect idx char point s).errChar,
      errPos := (segLoadCharEffect idx char point s).errPos } := by
  unfold segLoadCharEffect
  split
  · split <;> rfl
  · rfl

theorem setSegmentsEffect_frame (addr n : BitVec 4) (s : State) : setSegmentsEffect addr n s = { s with
    q := (setSegmentsEffect addr n s).q, errCode := (setSegmentsEffect addr n s).errCode } := by
  unfold setSegmentsEffect; split <;> rfl

theorem tlConfigEffect_frame (sel : BitVec 2) (value : Byte) (s : State) : tlConfigEffect sel value s = { s with
    tlCfgRed := (tlConfigEffect sel value s).tlCfgRed, tlCfgAmber := (tlConfigEffect sel value s).tlCfgAmber,
    tlCfgGreen := (tlConfigEffect sel value s).tlCfgGreen, errCode := (tlConfigEffect sel value s).errCode } := by
  unfold tlConfigEffect; (repeat' split) <;> rfl

/-- TL_START is refused, or it latches the durations and the rest is a move of the FSM (43_traffic_light.md R214, R215). -/
theorem tlStartEffect_cases (s : State) :
    tlStartEffect s = { s with errCode := .invalidConfiguration } ∨
    TrafficMove { s with
      errCode := .ok, tlR := s.tlCfgRed, tlA := s.tlCfgAmber, tlG := s.tlCfgGreen, tlBlink := 0#3, tlRun := 1#1 }
      (tlStartEffect s) := by
  unfold tlStartEffect
  split
  · exact .inl rfl
  · exact .inr (enterRed_move _)

/-- ENCODE writes the pattern and reports success, or leaves RESULT unchanged (40_seg_encoder.md R127). -/
theorem encodeEffect_result (char : Byte) (point : Bit) (s : State) :
    (encodeEffect char point s).result = s.result ∨
    ∃ b, encodePattern s.params char point = some b ∧ (encodeEffect char point s).result = b ∧
      (encodeEffect char point s).errCode = .ok := by
  unfold encodeEffect
  split
  · next b hb => exact .inr ⟨b, hb, rfl, rfl⟩
  · exact .inl rfl

theorem commandEffect_grows (i : Instr) (s : State) : Grows s (commandEffect i s) := by
  cases i with
  | encodeChar char point => rw [commandEffect, encodeEffect_frame]; exact .of_eq rfl rfl rfl rfl
  | segLoad idx byte => rw [commandEffect, segLoadEffect_frame]; exact .of_eq rfl rfl rfl rfl
  | segLoadChar idx char point => rw [commandEffect, segLoadCharEffect_frame]; exact .of_eq rfl rfl rfl rfl
  | setSegments addr n => rw [commandEffect, setSegmentsEffect_frame]; exact .of_eq rfl rfl rfl rfl
  | tlConfig sel value => rw [commandEffect, tlConfigEffect_frame]; exact .of_eq rfl rfl rfl rfl
  | tlStart =>
    rw [commandEffect]
    obtain h | h := tlStartEffect_cases s
    · rw [h]; exact .of_eq rfl rfl rfl rfl
    · refine .trans ?_ h.grows
      exact .of_eq rfl rfl rfl rfl
  | busStart | busStop | busWrite | setBrightness | tlStop | tlCbEnable => exact .of_eq rfl rfl rfl rfl

/-- Of the accepted commands only an ENCODE that succeeds writes RESULT (10_state.md R38). -/
theorem commandEffect_result (i : Instr) (s : State) :
    (commandEffect i s).result = s.result ∨
    ∃ char point b, i = .encodeChar char point ∧ encodePattern s.params char point = some b ∧
      (commandEffect i s).result = b ∧ (commandEffect i s).errCode = .ok := by
  cases i with
  | encodeChar char point =>
    obtain h | ⟨b, hb⟩ := encodeEffect_result char point s
    · exact .inl h
    · exact .inr ⟨char, point, b, rfl, hb⟩
  | segLoad idx byte => left; rw [commandEffect, segLoadEffect_frame]
  | segLoadChar idx char point => left; rw [commandEffect, segLoadCharEffect_frame]
  | setSegments addr n => left; rw [commandEffect, setSegmentsEffect_frame]
  | tlConfig sel value => left; rw [commandEffect, tlConfigEffect_frame]
  | tlStart =>
    left
    rw [commandEffect]
    obtain h | h := tlStartEffect_cases s
    · rw [h]
    · exact h.result
  | busStart | busStop | busWrite | setBrightness | tlStop | tlCbEnable => exact .inl rfl

theorem exec_grows {i : Instr} {s t : State} (e : exec i s = .next t) : Grows s t := by
  obtain ⟨-, rfl⟩ | ⟨-, rfl⟩ := exec_cases e
  · exact .of_eq rfl rfl rfl rfl
  · refine .trans ?_ (commandEffect_grows i s.accept)
    exact .of_eq rfl rfl rfl rfl

theorem exec_result {i : Instr} {s t : State} (e : exec i s = .next t) :
    t.result = s.result ∨ ∃ char point b, i = .encodeChar char point ∧ encodePattern s.params char point = some b ∧
      t.result = b ∧ t.errCode = .ok := by
  obtain ⟨-, rfl⟩ | ⟨-, rfl⟩ := exec_cases e
  · exact .inl rfl
  · exact commandEffect_result i s.accept

/-! ### A word on the command port -/

/-- An illegal word is held or reported, and writes the port and ERR_CODE only (30_encoding.md R94, R95). -/
theorem illegalWord_frame {w : Word} {s t : State} (e : illegalWord w s = .next t) :
    t = { s with port := t.port, errCode := t.errCode } := by
  unfold illegalWord at e
  split at e <;> cases e <;> rfl

theorem presentWord_grows {w : Word} {s t : State} (e : presentWord w s = .next t) : Grows s t := by
  cases hw : decode w with
  | ok i => exact exec_grows ((presentWord_ok hw s).symm.trans e)
  | error r =>
    rw [illegalWord_frame ((presentWord_error hw s).symm.trans e)]
    exact .of_eq rfl rfl rfl rfl

theorem presentWord_error_result {w : Word} {r : DecodeError} {s t : State} (hw : decode w = .error r)
    (e : presentWord w s = .next t) : t.result = s.result := by
  rw [illegalWord_frame ((presentWord_error hw s).symm.trans e)]

theorem presentWord_result {w : Word} {s t : State} (e : presentWord w s = .next t) :
    t.result = s.result ∨ ∃ char point b, decode w = .ok (.encodeChar char point) ∧
      encodePattern s.params char point = some b ∧ t.result = b ∧ t.errCode = .ok := by
  cases hw : decode w with
  | ok i =>
    obtain h | ⟨char, point, b, rfl, h⟩ := exec_result ((presentWord_ok hw s).symm.trans e)
    · exact .inl h
    · exact .inr ⟨char, point, b, rfl, h⟩
  | error r => exact .inl (presentWord_error_result hw e)

/-! ### A turn of a host thread -/

/-- Everything a host turn can do to the block: a word, the one on the port or else the one the thread issues next, is
presented to a block that differs from `s` in the threads' programs and the port only; or the block is left as it is. -/
theorem hostStep_presents_or_frames {h : HostThread} {s t : State} (e : hostStep h s = .next t) :
    (∃ w s', s.port.or (issuedWord (s.acts h)) = some w ∧ presentWord w s' = .next t ∧ s' = { s with
      hostProg := s'.hostProg, hostTask := s'.hostTask, port := s'.port, portThread := s'.portThread }) ∨
    t = { s with
      hostProg := t.hostProg, hostTask := t.hostTask, hostErrors := t.hostErrors, hostReads := t.hostReads } := by
  obtain ⟨w, hp, -, h'⟩ | ⟨-, -, h'⟩ | ⟨hfree, h'⟩ := hostStep_cases h s <;> rw [h'] at e
  · exact .inl ⟨w, s, by simp [hp], e, rfl⟩
  · cases e; exact .inr rfl
  · obtain hp | ⟨-, -, -, ha⟩ := hfree
    · cases hacts : s.acts h with
      | nil =>
        rw [threadStep_done hacts] at e
        cases e
        cases h <;> exact .inr rfl
      | cons a rest =>
        rw [threadStep_act hacts] at e
        obtain ⟨w, rfl⟩ | ha := exists_or_forall_not fun w => a = .issue w
        · exact .inl ⟨w, _, by simp [hp, issuedWord], e, by cases h <;> rfl⟩
        · exact .inr (hostAct_frame ha e)
    · obtain ⟨t', ht', hframe⟩ := threadStep_frame ha
      cases ht'.symm.trans e
      exact .inr hframe

theorem hostStep_grows {h : HostThread} {s t : State} (e : hostStep h s = .next t) : Grows s t := by
  obtain ⟨w, s', -, hw, hs⟩ | ht := hostStep_presents_or_frames e
  · refine .trans ?_ (presentWord_grows hw)
    rw [hs]; exact .of_eq rfl rfl rfl rfl
  · rw [ht]; exact .of_eq rfl rfl rfl rfl

theorem hostStep_result {h : HostThread} {s t : State} (e : hostStep h s = .next t) :
    t.result = s.result ∨ ∃ w char point b, s.port.or (issuedWord (s.acts h)) = some w ∧
      decode w = .ok (.encodeChar char point) ∧ encodePattern s.params char point = some b ∧
      t.result = b ∧ t.errCode = .ok := by
  obtain ⟨w, s', hp, hw, hs⟩ | ht := hostStep_presents_or_frames e
  · have hres : s'.result = s.result := by rw [hs]
    have hpar : s'.params = s.params := by rw [hs]
    obtain h' | ⟨char, point, b, hd, hb, ht⟩ := presentWord_result hw
    · exact .inl (h'.trans hres)
    · exact .inr ⟨w, char, point, b, hp, hd, hpar ▸ hb, ht⟩
  · left; rw [ht]

/-! ### A step -/

theorem takeTurn_grows {turn : Turn} {s t : State} (e : takeTurn turn s = .next t) : Grows s t := by
  cases turn with
  | host | task => exact hostStep_grows e
  | serial => cases e; exact busStep_grows s
  | tick => exact (tick_move e).grows
  | reset => cases e; exact .of_eq rfl rfl rfl rfl

/-- Every step keeps the parameters and all that the fault record and the traces hold (10_state.md R44, R54). -/
theorem step_grows {s t : State} (e : step s = .next t) : Grows s t := by
  cases hturns : s.turns with
  | nil => cases (step_unscheduled hturns).symm.trans e; exact .of_eq rfl rfl rfl rfl
  | cons turn rest =>
    refine .trans ?_ (takeTurn_grows ((step_turn hturns).symm.trans e))
    exact .of_eq rfl rfl rfl rfl

/-- Of the turns other than reset only one that presents a succeeding ENCODE writes RESULT (10_state.md R38). -/
theorem takeTurn_result {turn : Turn} {s t : State} (hturn : turn ≠ .reset) (e : takeTurn turn s = .next t) :
    t.result = s.result ∨ ∃ w char point b, presentedWord turn s = some w ∧
      decode w = .ok (.encodeChar char point) ∧ encodePattern s.params char point = some b ∧
      t.result = b ∧ t.errCode = .ok := by
  cases turn with
  | host | task => exact hostStep_result e
  | serial => cases e; exact .inl (busStep_result s)
  | tick => exact .inl (tick_move e).result
  | reset => exact absurd rfl hturn

theorem step_reset {s : State} {rest : List Turn} (h : s.turns = .reset :: rest) :
    step s = .next (resetStep { s with turns := rest, stepNo := s.stepNo + 1 }) := step_turn h

end Sys2Proof.Machine
end

section
/-! PROOFS. The statements of 10_state.md on reset, the ROM, the fault record and RESULT. -/

namespace Sys2Proof.Proofs

open Sys2Proof.Machine

/-- Settles O14: of the turns only a host's presents a word, and of the words only an ENCODE's effect writes RESULT. -/
theorem onlySuccessfulEncodeWritesResult : Obligations.OnlySuccessfulEncodeWritesResult := by
  refine ⟨fun i s t => exec_result, ?_, fun w r s t => presentWord_error_result, ?_, rfl⟩
  · intro s t turn rest hturns hturn e
    have h := takeTurn_result hturn ((step_turn hturns).symm.trans e)
    exact h
  · intro s t hturns e
    cases (step_unscheduled hturns).symm.trans e
    rfl

/-- Settles O13: every step extends the fault record and the traces, and a record that is not empty stays so. -/
theorem faultRecordAndTracesOnlyGrow : Obligations.FaultRecordAndTracesOnlyGrow := by
  refine ⟨fun s t e => ?_, rfl⟩
  have h := step_grows e
  exact ⟨h.faults, h.wireTrace, h.phaseTrace, fun hs => (finalObservation_eq_none t).2 (h.faults.ne_nil hs)⟩

/-- Settles O12: every step keeps all parameters, SEG_LUT among them. -/
theorem romNeverChanges : Obligations.RomNeverChanges :=
  ⟨fun _ _ e => ⟨congrArg Params.segLut (step_grows e).params, (step_grows e).params⟩, rfl⟩

/-- Settles O11: the reset step takes the registers from the reset state of the block's own parameters, whose numbers are
the MBPE's, and keeps the parameters, the fault record and the traces. -/
theorem resetStepLeavesResetValues : Obligations.ResetStepLeavesResetValues := by
  refine ⟨fun s rest hmbpe hturns => ⟨_, step_reset hturns, ?_⟩, rfl, rfl, rfl, rfl⟩
  simp [resetStep, State.resetWith, State.busy, hmbpe, mbpeConstants]

end Sys2Proof.Proofs
end

section
/-! SUPPORT. Which words the rows of the opcode map take, and what presenting an illegal word does
(30_encoding.md R94 to R97). -/

namespace Sys2Proof

/-! ### The rows that take a word -/

theorem opcodeRow_eq_of_op {r r' : OpcodeRow} (hr : r ∈ opcodeRows) (hr' : r' ∈ opcodeRows)
    (h : opOf r.pattern = opOf r'.pattern) : r = r' :=
  List.inj_on_of_nodup_map (f := fun r : OpcodeRow => opOf r.pattern) (List.pairwise_map.2 opcodeRows_ops_differ) hr hr' h

theorem opcodeRow_takes_iff_op {r : OpcodeRow} (hr : r ∈ opcodeRows) (w : Word) :
    w &&& r.mask = r.pattern ↔
      opOf w = opOf r.pattern ∧ w.extractLsb' 0 28 &&& r.mask.extractLsb' 0 28 = 0#28 := by
  obtain ⟨hmask, hpattern⟩ := opcodeRows_cover r hr
  rw [← beq_iff_eq, row_takes_iff w r.mask r.pattern hmask hpattern, Bool.and_eq_true, decide_eq_true_eq, beq_iff_eq]

/-- At most one row takes a word, because the rows differ in OP (30_encoding.md R97). -/
theorem opcodeRow_unique {w : Word} {r r' : OpcodeRow} (hr : r ∈ opcodeRows) (hr' : r' ∈ opcodeRows)
    (h : w &&& r.mask = r.pattern) (h' : w &&& r'.mask = r'.pattern) : r = r' :=
  opcodeRow_eq_of_op hr hr'
    (((opcodeRow_takes_iff_op hr w).1 h).1.symm.trans ((opcodeRow_takes_iff_op hr' w).1 h').1)

theorem decode_of_row {w : Word} {r : OpcodeRow} (hr : r ∈ opcodeRows) (h : w &&& r.mask = r.pattern) :
    decode w = .ok (r.build w) := by
  unfold decode
  cases found : opcodeRows.find? (fun r => w &&& r.mask == r.pattern) with
  | none => exact absurd (beq_iff_eq.2 h) (List.find?_eq_none.1 found r hr)
  | some r' =>
    have htake : w &&& r'.mask = r'.pattern := by simpa using List.find?_some found
    rw [opcodeRow_unique hr (List.mem_of_find?_eq_some found) h htake]

theorem decode_of_no_row {w : Word} (h : ∀ r ∈ opcodeRows, w &&& r.mask ≠ r.pattern) :
    decode w = .error (illegalReason w) := by
  have none_found : opcodeRows.find? (fun r => w &&& r.mask == r.pattern) = none :=
    List.find?_eq_none.2 fun r hr => by simpa using h r hr
  simp only [decode, none_found]

/-! ### The reserved-zero bits -/

/-- Below OP a row's mask is the reserved-zero bits of its OP (30_encoding.md R93). -/
theorem opcodeRow_mask_reserved : ∀ r ∈ opcodeRows,
    r.mask.extractLsb' 0 28 = (Machine.reservedZeroBits (opOf r.pattern)).extractLsb' 0 28 := by decide

theorem opOf_and (x y : Word) : opOf (x &&& y) = opOf x &&& opOf y := BitVec.extractLsb'_and

theorem reservedZeroBits_op : ∀ op, opOf (Machine.reservedZeroBits op) = 0#4 := by decide

theorem and_reservedZeroBits_eq_zero_iff (w : Word) (op : BitVec 4) :
    w &&& Machine.reservedZeroBits op = 0#32 ↔
      w.extractLsb' 0 28 &&& (Machine.reservedZeroBits op).extractLsb' 0 28 = 0#28 := by
  have hop : opOf (w &&& Machine.reservedZeroBits op) = opOf 0#32 := by
    rw [opOf_and, reservedZeroBits_op, BitVec.and_zero]
    rfl
  have hzero : (0#32).extractLsb' 0 28 = 0#28 := rfl
  rw [word_eq_iff, BitVec.extractLsb'_and, hzero, and_iff_right hop]

theorem opcodeRow_takes_iff {r : OpcodeRow} (hr : r ∈ opcodeRows) (w : Word) :
    w &&& r.mask = r.pattern ↔ opOf w = opOf r.pattern ∧ w &&& Machine.reservedZeroBits (opOf w) = 0#32 := by
  rw [opcodeRow_takes_iff_op hr, opcodeRow_mask_reserved r hr, and_reservedZeroBits_eq_zero_iff]
  exact and_congr_right fun hop => by rw [hop]

theorem opcodeRow_of_op : ∀ op : BitVec 4, 1 ≤ op.toNat → op.toNat ≤ 12 → ∃ r ∈ opcodeRows, opOf r.pattern = op := by
  decide

theorem opcodeRow_op_range : ∀ r ∈ opcodeRows, 1 ≤ (opOf r.pattern).toNat ∧ (opOf r.pattern).toNat ≤ 12 := by decide

/-- A word with a command's OP and no reserved-zero bit set decodes (30_encoding.md R95). -/
theorem decode_ok_of_reserved_clear {w : Word} (hlo : 1 ≤ (opOf w).toNat) (hhi : (opOf w).toNat ≤ 12)
    (h : w &&& Machine.reservedZeroBits (opOf w) = 0#32) : ∃ i, decode w = .ok i := by
  obtain ⟨r, hr, hop⟩ := opcodeRow_of_op (opOf w) hlo hhi
  exact ⟨r.build w, decode_of_row hr ((opcodeRow_takes_iff hr w).2 ⟨hop.symm, h⟩)⟩

theorem decode_error_of_reserved_set {w : Word} (h : w &&& Machine.reservedZeroBits (opOf w) ≠ 0#32) :
    decode w = .error (illegalReason w) :=
  decode_of_no_row fun _ hr htake => h ((opcodeRow_takes_iff hr w).1 htake).2

theorem decode_error_of_reserved_op {w : Word} (h : (opOf w).toNat < 1 ∨ 12 < (opOf w).toNat) :
    decode w = .error (illegalReason w) :=
  decode_of_no_row fun r hr htake => by
    have hrange := opcodeRow_op_range r hr
    rw [← ((opcodeRow_takes_iff hr w).1 htake).1] at hrange
    omega

end Sys2Proof

namespace Sys2Proof.Machine

/-! ### Presenting an illegal word -/

theorem holds_iff (w : Word) (s : State) : s.holds w = true ↔ isSerialWord w = true ∧ s.q ≠ [] := by
  simp [State.holds, State.busy]

/-- An illegal word that is not held raises IllegalCommand and changes nothing else (30_encoding.md R94, R95). -/
theorem presentWord_illegal_accepted {w : Word} {e : DecodeError} {s : State} (hw : decode w = .error e)
    (h : s.holds w = false) : presentWord w s = .next { s with port := none, errCode := .illegalCommand } := by
  rw [presentWord_error hw, illegalWord, h]
  rfl

theorem presentWord_illegal_held {w : Word} {e : DecodeError} {s : State} (hw : decode w = .error e)
    (h : s.holds w = true) : presentWord w s = .next { s with port := some w } := by
  rw [presentWord_error hw, illegalWord, h]
  rfl

end Sys2Proof.Machine
end

section
/-! PROOFS. The statements of 30_encoding.md on the opcode map and on illegal words. -/

namespace Sys2Proof.Proofs

open Sys2Proof.Machine

/-- Settles O3: the rows differ in OP, so the first row found is the only one that takes the word. -/
theorem decodeFollowsOpcodeMap : Obligations.DecodeFollowsOpcodeMap := by
  refine ⟨rfl, fun w => ⟨fun r hr => decode_of_row hr, fun h => ⟨_, decode_of_no_row h⟩, ?_⟩⟩
  exact fun r hr r' hr' h h' => congrArg OpcodeRow.pattern (opcodeRow_unique hr hr' h h')

/-- Settles O5: no row has a reserved OP, and the reserved OPs are not of the serial class, so the word is not held. -/
theorem reservedOpIsIllegalAtOnce : Obligations.ReservedOpIsIllegalAtOnce := by
  intro w s hop
  have hreserved : (opOf w).toNat < 1 ∨ 12 < (opOf w).toNat := by
    rcases hop with h | h | h | h <;> simp [h]
  have hclass : isSerialWord w = false := by
    rcases hop with h | h | h | h <;> simp [isSerialWord, h]
  have hfree : s.holds w = false := by rw [State.holds, hclass, Bool.false_and]
  exact presentWord_illegal_accepted (decode_error_of_reserved_op hreserved) hfree

/-- Settles O6: a row's mask is its OP's reserved-zero bits, so the row of the OP takes the word iff they are clear; else the
word is illegal, and its class decides whether it is held. -/
theorem reservedBitsAreIllegal : Obligations.ReservedBitsAreIllegal := by
  intro w s hlo hhi
  refine ⟨fun hset => ?_, decode_ok_of_reserved_clear hlo hhi⟩
  have hw := decode_error_of_reserved_set hset
  have hcond := holds_iff w s
  unfold isSerialWord at hcond
  split
  case isTrue hheld => exact presentWord_illegal_held hw (hcond.2 hheld)
  case isFalse hfree => exact presentWord_illegal_accepted hw (Bool.eq_false_iff.2 fun h => hfree (hcond.1 h))

end Sys2Proof.Proofs
end

section
/-! SUPPORT. The character encoder (40_seg_encoder.md R122 to R126), what the commands that encode do, and which error each
accepted command can report. -/

namespace Sys2Proof.Machine

/-! ### The normalised index -/

theorem codeBetween_iff (lo hi c : Byte) : codeBetween lo hi c = true ↔ lo.toNat ≤ c.toNat ∧ c.toNat ≤ hi.toNat := by
  simp [codeBetween]

theorem charIndex_small {c : Byte} (hlo : 0x61 ≤ c.toNat) (hhi : c.toNat ≤ 0x7A) :
    charIndex c = some (Fin.ofNat 39 (c - 0x61#8 + 10#8).toNat) := by
  have hdigit : ¬ codeBetween 0x30#8 0x39#8 c = true := by rw [codeBetween_iff]; bv_omega
  have hsmall : codeBetween 0x61#8 0x7A#8 c = true := (codeBetween_iff ..).2 ⟨hlo, hhi⟩
  rw [charIndex, if_neg hdigit, if_pos hsmall]

theorem charIndex_capital {c : Byte} (hlo : 0x41 ≤ c.toNat) (hhi : c.toNat ≤ 0x5A) :
    charIndex c = some (Fin.ofNat 39 (c - 0x41#8 + 10#8).toNat) := by
  have hdigit : ¬ codeBetween 0x30#8 0x39#8 c = true := by rw [codeBetween_iff]; bv_omega
  have hsmall : ¬ codeBetween 0x61#8 0x7A#8 c = true := by rw [codeBetween_iff]; bv_omega
  have hcapital : codeBetween 0x41#8 0x5A#8 c = true := (codeBetween_iff ..).2 ⟨hlo, hhi⟩
  rw [charIndex, if_neg hdigit, if_neg hsmall, if_pos hcapital]

/-- A capital's small letter lies 0x20 above it and gets the same index (40_seg_encoder.md R123). -/
theorem charIndex_capital_eq_small {c : Byte} (hlo : 0x41 ≤ c.toNat) (hhi : c.toNat ≤ 0x5A) :
    charIndex c = charIndex (c + 0x20#8) := by
  have hcode : (c + 0x20#8).toNat = c.toNat + 0x20 := by bv_omega
  have hoffset : c + 0x20#8 - 0x61#8 = c - 0x41#8 := by bv_omega
  rw [charIndex_capital hlo hhi, charIndex_small (by omega) (by omega), hoffset]

/-- A guarded subtraction of 40_seg_encoder.md R122 does not wrap, and its result is below 39. -/
theorem index_offset_val {c lo : Byte} {k : Nat} (hlo : lo.toNat ≤ c.toNat) (hk : c.toNat - lo.toNat + k < 39) :
    (Fin.ofNat 39 (c - lo + BitVec.ofNat 8 k).toNat).val = c.toNat - lo.toNat + k := by
  have hoffset : (c - lo).toNat = c.toNat - lo.toNat := BitVec.toNat_sub_of_le hlo
  simp only [Fin.val_ofNat, BitVec.toNat_add, hoffset, BitVec.toNat_ofNat]
  omega

/-! ### The encode function -/

/-- The point is bit 7 of the pattern (40_seg_encoder.md R126). -/
theorem pointBit_eq : ∀ point : Bit, point.setWidth 8 <<< 7 = if point = 1#1 then 0x80#8 else 0#8 := by decide

theorem encodePattern_of_invalid {c : Byte} (h : charIndex c = none) (p : Params) (point : Bit) :
    encodePattern p c point = none := by rw [encodePattern, h, Option.map_none]

theorem encodePattern_of_index {c : Byte} {i : Fin 39} (h : charIndex c = some i) (p : Params) (point : Bit) :
    encodePattern p c point = some (if point = 1#1 then p.segLut.get i ||| 0x80#8 else p.segLut.get i) := by
  rw [encodePattern, h, Option.map_some, pointBit_eq]
  split
  · rfl
  · rw [BitVec.or_zero]

/-! ### The commands that encode -/

theorem exec_encodeChar (char : Byte) (point : Bit) (s : State) :
    exec (.encodeChar char point) s = .next (encodeEffect char point s.accept) := rfl

theorem encodeEffect_valid {char : Byte} {point : Bit} {s : State} {b : Byte}
    (h : encodePattern s.params char point = some b) :
    encodeEffect char point s = { s with result := b, errCode := .ok } := by
  simp only [encodeEffect, h]; rfl

theorem encodeEffect_invalid {char : Byte} {point : Bit} {s : State} (h : encodePattern s.params char point = none) :
    encodeEffect char point s = { s with errCode := .invalidCharacter, errChar := char, errPos := 0#3 } := by
  simp only [encodeEffect, h]; rfl

/-! ### The errors of an accepted command -/

theorem exec_accepted {i : Instr} {s : State} (h : acceptedNow i s = true) :
    exec i s = .next (commandEffect i s.accept) := by
  have hfree : (isSerialInstr i && s.busy) = false := by simpa only [acceptedNow, Bool.not_eq_true'] using h
  rw [exec_eq, hfree]
  rfl

theorem segLoadEffect_errCode (idx : BitVec 3) (byte : Byte) (s : State) : (segLoadEffect idx byte s).errCode =
    if idxInRange s.params.consts idx then .ok else .invalidArgument := by
  unfold segLoadEffect; split <;> rfl

theorem setSegmentsEffect_errCode (addr n : BitVec 4) (s : State) : (setSegmentsEffect addr n s).errCode =
    if sessionInRange s.params.consts addr n then .ok else .invalidArgument := by
  unfold setSegmentsEffect; split <;> rfl

theorem tlConfigEffect_errCode (sel : BitVec 2) (value : Byte) (s : State) : (tlConfigEffect sel value s).errCode =
    if sel = 3#2 then .invalidArgument else .ok := by
  have hsel : ∀ sel : BitVec 2, sel = 0#2 ∨ sel = 1#2 ∨ sel = 2#2 ∨ sel = 3#2 := by decide
  obtain rfl | rfl | rfl | rfl := hsel sel <;> rfl

/-- A chain of lamp writes and registers reports nothing, or the failure of one of its lamp writes
(43_traffic_light.md R229). -/
def KeepsErrCodeOrFails (f : State → State) : Prop :=
  ∀ s, (f s).errCode = s.errCode ∨ (f s).errCode = .pinFailure

theorem lampWrite_errCode {rest : State → State} (hrest : KeepsErrCodeOrFails rest) (l : Lamp) (b : Bit) :
    KeepsErrCodeOrFails (lampWrite l b rest) := by
  intro s
  refine lampWrite_induct (P := fun t => t.errCode = s.errCode ∨ t.errCode = .pinFailure) s l b rest (.inr ?_) ?_
  · rw [lampFailure_eq]
  · simpa using hrest (s.takeAnswer.setLamp l b)

theorem enterGreen_errCode : KeepsErrCodeOrFails enterGreen := by
  refine lampWrite_errCode ?_ .green 1#1
  exact fun s => .inl (s.notify_errCode .green s.tlG)

theorem leaveRed_errCode : KeepsErrCodeOrFails leaveRed := lampWrite_errCode enterGreen_errCode _ _

theorem redEntered_errCode : KeepsErrCodeOrFails redEntered := by
  intro s
  unfold redEntered
  dsimp only
  split
  · simpa using leaveRed_errCode { s.notify .red s.tlR with tlPhase := .red, tlCnt := s.params.consts.ticksOf s.tlR }
  · exact .inl (s.notify_errCode ..)

theorem enterRed_errCode : KeepsErrCodeOrFails enterRed := lampWrite_errCode redEntered_errCode _ _

/-- A TL_START is refused for its green duration, or succeeds but for a failed lamp write (43_traffic_light.md R215, R229). -/
theorem tlStartEffect_errCode (s : State) :
    (s.tlCfgGreen.toNat < s.params.consts.tlGreenMin.toNat ∧ (tlStartEffect s).errCode = .invalidConfiguration) ∨
    (s.params.consts.tlGreenMin.toNat ≤ s.tlCfgGreen.toNat ∧
      ((tlStartEffect s).errCode = .ok ∨ (tlStartEffect s).errCode = .pinFailure)) := by
  unfold tlStartEffect
  split
  · next h => exact .inl ⟨h, rfl⟩
  · next h => exact .inr ⟨by omega, enterRed_errCode _⟩

/-- The command encodes a character: ENCODE or SEG_LOAD_CHAR. -/
def EncodesCharacter (i : Instr) : Prop :=
  (∃ char point, i = .encodeChar char point) ∨ ∃ idx char point, i = .segLoadChar idx char point

/-- Only a command that encodes reports InvalidCharacter (40_seg_encoder.md R128). -/
theorem encodesCharacter_of_invalidCharacter {i : Instr} {s : State}
    (h : (commandEffect i s).errCode = .invalidCharacter) : EncodesCharacter i := by
  cases i with
  | encodeChar char point => exact .inl ⟨char, point, rfl⟩
  | segLoadChar idx char point => exact .inr ⟨idx, char, point, rfl⟩
  | segLoad idx byte => rw [commandEffect, segLoadEffect_errCode] at h; split at h <;> cases h
  | setSegments addr n => rw [commandEffect, setSegmentsEffect_errCode] at h; split at h <;> cases h
  | tlConfig sel value => rw [commandEffect, tlConfigEffect_errCode] at h; split at h <;> cases h
  | tlStart =>
    rw [commandEffect] at h
    obtain ⟨-, e⟩ | ⟨-, e | e⟩ := tlStartEffect_errCode s <;> cases e.symm.trans h
  | busStart | busStop | busWrite | setBrightness | tlStop | tlCbEnable => cases h

/-- A command that encodes puts no event in Q or on the wire, whether it succeeds or fails. -/
theorem EncodesCharacter.bus_unchanged {i : Instr} (h : EncodesCharacter i) (s : State) :
    (commandEffect i s).q = s.q ∧ (commandEffect i s).wireTrace = s.wireTrace := by
  obtain ⟨char, point, rfl⟩ | ⟨idx, char, point, rfl⟩ := h
  · rw [commandEffect, encodeEffect_frame]; exact ⟨rfl, rfl⟩
  · rw [commandEffect, segLoadCharEffect_frame]; exact ⟨rfl, rfl⟩

/-! ### Reserved-zero bits -/

theorem reservedZeroBits_illegal (op : BitVec 4) : ReservedBitsIllegal op (reservedZeroBits op) := by
  rintro w s rfl hset hfree
  exact presentWord_illegal_accepted (decode_error_of_reserved_set hset) hfree

end Sys2Proof.Machine
end

section
/-! PROOFS. The statements of 40_seg_encoder.md on the character encoder and its commands. -/

namespace Sys2Proof.Proofs

open Sys2Proof.Machine

/-- Settles O17: ENCODE is of the immediate class, so its effect takes place in any state, and the effect is read off the
encoded pattern; the reserved-bit clause is the row's own. -/
theorem encodeWritesResultOrReportsCharacter : Obligations.EncodeWritesResultOrReportsCharacter := by
  refine ⟨fun char point s => ⟨fun b hvalid => ?_, fun hinvalid => ?_⟩, reservedZeroBits_illegal 0x1#4⟩
  · rw [exec_encodeChar, encodeEffect_valid (s := s.accept) hvalid]; rfl
  · rw [exec_encodeChar, encodeEffect_invalid (s := s.accept) hinvalid]; rfl

/-- Settles O32: of the accepted commands' effects only the two that encode report InvalidCharacter, and these two leave Q and
the wire trace as they are. -/
theorem invalidCharacterBeforeBusActivity : Obligations.InvalidCharacterBeforeBusActivity := by
  intro i s t hacc e
  rw [exec_accepted hacc] at e
  cases e
  exact ⟨encodesCharacter_of_invalidCharacter, fun hencodes => EncodesCharacter.bus_unchanged hencodes s.accept⟩

/-- Settles O34: the guards of the index are the ranges of codes, and in each range the 8-bit arithmetic does not wrap. -/
theorem characterIndexTable : Obligations.CharacterIndexTable := by
  intro c
  simp only [charIndex, codeBetween_iff, ← BitVec.toNat_inj, BitVec.toNat_ofNat, Nat.reducePow, Nat.reduceMod]
  split_ifs with hdigit hsmall hcapital
  · simpa using index_offset_val (c := c) (lo := 0x30#8) (k := 0) hdigit.1 (by bv_omega)
  · exact congrArg some (index_offset_val (c := c) (lo := 0x61#8) (k := 10) hsmall.1 (by bv_omega))
  · exact congrArg some (index_offset_val (c := c) (lo := 0x41#8) (k := 10) hcapital.1 (by bv_omega))
  all_goals rfl

/-- Settles O35: the two codes have the same index, and the pattern depends on the code through the index alone. -/
theorem lettersFoldCase : Obligations.LettersFoldCase := by
  intro c hlo hhi
  have hindex := charIndex_capital_eq_small hlo hhi
  exact ⟨hindex, fun p point => by rw [encodePattern, encodePattern, hindex]⟩

/-- Settles O36: the encode function is read off the index, and the point bit is bit 7. -/
theorem encodeFunction : Obligations.EncodeFunction :=
  fun p _ point => ⟨fun h => encodePattern_of_invalid h p point, fun _ h => encodePattern_of_index h p point⟩

end Sys2Proof.Proofs
end

section
/-! SUPPORT. A word that decodes is its command's encoding (30_encoding.md R91 to R97), so a held command stays on the port
as the word that was presented, and the word's class is the command's (41_serial_bus.md R142). -/

namespace Sys2Proof

/-! ### The fields of a word that a row takes -/

/-- A field that the row's mask covers is the pattern's. -/
theorem field_of_masked {w mask pattern : Word} (h : w &&& mask = pattern) (start len : Nat)
    (hmask : mask.extractLsb' start len = BitVec.allOnes len) :
    w.extractLsb' start len = pattern.extractLsb' start len := by
  rw [← h, BitVec.extractLsb'_and, hmask, BitVec.and_allOnes]

theorem pattern_eq_of_full_mask {w pattern : Word} (h : w &&& 0xFFFFFFFF#32 = pattern) : pattern = w := by
  rw [← h]; exact BitVec.and_allOnes

theorem append_fields (w : Word) (lo n m : Nat) :
    w.extractLsb' (lo + m) n ++ w.extractLsb' lo m = w.extractLsb' lo (n + m) :=
  BitVec.extractLsb'_append_extractLsb'_eq_extractLsb' rfl

/-- A word is its OP before its operand bits (30_encoding.md R90). -/
theorem op_append_operands (w : Word) : w.extractLsb' 28 4 ++ w.extractLsb' 0 28 = w :=
  (append_fields w 0 4 28).trans BitVec.extractLsb'_eq_self

/-- A row's operands, encoded again, give the word they were taken from: the operand fields and the fields of the mask make
up the whole word (30_encoding.md R91, R93). -/
theorem encode_build_of_row : ∀ r ∈ opcodeRows, ∀ w : Word, w &&& r.mask = r.pattern → encode (r.build w) = w := by
  simp only [opcodeRows, List.forall_mem_cons]
  refine ⟨?encodeChar, ?busStart, ?busStop, ?busWrite, ?segLoad, ?segLoadChar, ?setSegments, ?setBrightness, ?tlConfig,
    ?tlStart, ?tlStop, ?tlCbEnable, List.forall_mem_nil _⟩ <;> intro w h
  case busStart | busStop | tlStart | tlStop => exact pattern_eq_of_full_mask h
  case encodeChar =>
    calc encode (.encodeChar (w.extractLsb' 0 8) (w.extractLsb' 8 1))
      _ = w.extractLsb' 28 4 ++ (w.extractLsb' 9 19 ++ (w.extractLsb' 8 1 ++ w.extractLsb' 0 8)) := by
        rw [field_of_masked h 28 4 rfl, field_of_masked h 9 19 rfl]; rfl
      _ = w := by rw [append_fields w 0 1 8, append_fields w 0 19 9, op_append_operands]
  case busWrite =>
    calc encode (.busWrite (w.extractLsb' 0 8))
      _ = w.extractLsb' 28 4 ++ (w.extractLsb' 8 20 ++ w.extractLsb' 0 8) := by
        rw [field_of_masked h 28 4 rfl, field_of_masked h 8 20 rfl]; rfl
      _ = w := by rw [append_fields w 0 20 8, op_append_operands]
  case segLoad =>
    calc encode (.segLoad (w.extractLsb' 16 3) (w.extractLsb' 0 8))
      _ = w.extractLsb' 28 4 ++ (w.extractLsb' 19 9 ++ (w.extractLsb' 16 3 ++ (w.extractLsb' 8 8 ++ w.extractLsb' 0 8))) := by
        rw [field_of_masked h 28 4 rfl, field_of_masked h 19 9 rfl, field_of_masked h 8 8 rfl]; rfl
      _ = w := by
        rw [append_fields w 0 8 8, append_fields w 0 3 16, append_fields w 0 9 19, op_append_operands]
  case segLoadChar =>
    calc encode (.segLoadChar (w.extractLsb' 16 3) (w.extractLsb' 0 8) (w.extractLsb' 8 1))
      _ = w.extractLsb' 28 4 ++ (w.extractLsb' 19 9 ++ (w.extractLsb' 16 3
            ++ (w.extractLsb' 9 7 ++ (w.extractLsb' 8 1 ++ w.extractLsb' 0 8)))) := by
        rw [field_of_masked h 28 4 rfl, field_of_masked h 19 9 rfl, field_of_masked h 9 7 rfl]; rfl
      _ = w := by
        rw [append_fields w 0 1 8, append_fields w 0 7 9, append_fields w 0 3 16, append_fields w 0 9 19,
          op_append_operands]
  case setSegments =>
    calc encode (.setSegments (w.extractLsb' 16 4) (w.extractLsb' 0 4))
      _ = w.extractLsb' 28 4 ++ (w.extractLsb' 20 8 ++ (w.extractLsb' 16 4 ++ (w.extractLsb' 4 12 ++ w.extractLsb' 0 4))) := by
        rw [field_of_masked h 28 4 rfl, field_of_masked h 20 8 rfl, field_of_masked h 4 12 rfl]; rfl
      _ = w := by
        rw [append_fields w 0 12 4, append_fields w 0 4 16, append_fields w 0 8 20, op_append_operands]
  case setBrightness =>
    calc encode (.setBrightness (w.extractLsb' 0 3))
      _ = w.extractLsb' 28 4 ++ (w.extractLsb' 3 25 ++ w.extractLsb' 0 3) := by
        rw [field_of_masked h 28 4 rfl, field_of_masked h 3 25 rfl]; rfl
      _ = w := by rw [append_fields w 0 25 3, op_append_operands]
  case tlConfig =>
    calc encode (.tlConfig (w.extractLsb' 16 2) (w.extractLsb' 0 8))
      _ = w.extractLsb' 28 4 ++ (w.extractLsb' 18 10 ++ (w.extractLsb' 16 2 ++ (w.extractLsb' 8 8 ++ w.extractLsb' 0 8))) := by
        rw [field_of_masked h 28 4 rfl, field_of_masked h 18 10 rfl, field_of_masked h 8 8 rfl]; rfl
      _ = w := by
        rw [append_fields w 0 8 8, append_fields w 0 2 16, append_fields w 0 10 18, op_append_operands]
  case tlCbEnable =>
    calc encode (.tlCbEnable (w.extractLsb' 0 1))
      _ = w.extractLsb' 28 4 ++ (w.extractLsb' 1 27 ++ w.extractLsb' 0 1) := by
        rw [field_of_masked h 28 4 rfl, field_of_masked h 1 27 rfl]; rfl
      _ = w := by rw [append_fields w 0 27 1, op_append_operands]

/-- The decoder answers a command only from a row that takes the word. -/
theorem row_of_decode {w : Word} {i : Instr} (h : decode w = .ok i) :
    ∃ r ∈ opcodeRows, w &&& r.mask = r.pattern ∧ i = r.build w := by
  by_cases hrow : ∃ r ∈ opcodeRows, w &&& r.mask = r.pattern
  · obtain ⟨r, hr, htake⟩ := hrow
    exact ⟨r, hr, htake, Except.ok.inj (h.symm.trans (decode_of_row hr htake))⟩
  · cases h.symm.trans (decode_of_no_row fun r hr htake => hrow ⟨r, hr, htake⟩)

theorem encode_of_decode {w : Word} {i : Instr} (h : decode w = .ok i) : encode i = w := by
  obtain ⟨r, hr, htake, rfl⟩ := row_of_decode h
  exact encode_build_of_row r hr w htake

/-! ### The class of a word -/

theorem isSerialWord_encode (i : Instr) : isSerialWord (encode i) = isSerialInstr i := by
  cases i with
  | encodeChar char point => exact (Laws.OpClass.encodeChar char point).1
  | busStart => exact Laws.OpClass.busStart.1
  | busStop => exact Laws.OpClass.busStop.1
  | busWrite byte => exact (Laws.OpClass.busWrite byte).1
  | segLoad idx byte => exact (Laws.OpClass.segLoad idx byte).1
  | segLoadChar idx char point => exact (Laws.OpClass.segLoadChar idx char point).1
  | setSegments addr n => exact (Laws.OpClass.setSegments addr n).1
  | setBrightness level => exact (Laws.OpClass.setBrightness level).1
  | tlConfig sel value => exact (Laws.OpClass.tlConfig sel value).1
  | tlStart => exact Laws.OpClass.tlStart.1
  | tlStop => exact Laws.OpClass.tlStop.1
  | tlCbEnable en => exact (Laws.OpClass.tlCbEnable en).1

theorem isSerialWord_of_decode {w : Word} {i : Instr} (h : decode w = .ok i) : isSerialWord w = isSerialInstr i := by
  rw [← isSerialWord_encode, encode_of_decode h]

end Sys2Proof

namespace Sys2Proof.Machine

/-! ### Holding and acceptance of a word -/

/-- An accepted command's effect leaves the command port as acceptance left it. -/
theorem commandEffect_port (i : Instr) (s : State) : (commandEffect i s).port = s.port := by
  cases i with
  | encodeChar char point => rw [commandEffect, encodeEffect_frame]
  | segLoad idx byte => rw [commandEffect, segLoadEffect_frame]
  | segLoadChar idx char point => rw [commandEffect, segLoadCharEffect_frame]
  | setSegments addr n => rw [commandEffect, setSegmentsEffect_frame]
  | tlConfig sel value => rw [commandEffect, tlConfigEffect_frame]
  | tlStart =>
    rw [commandEffect]
    obtain h | h := tlStartEffect_cases s
    · rw [h]
    · rw [h.frame]
  | busStart | busStop | busWrite | setBrightness | tlStop | tlCbEnable => rfl

/-- A word that the block holds, legal or not, stays on the port, and nothing else happens (41_serial_bus.md R142). -/
theorem presentWord_held {w : Word} {s : State} (h : s.holds w = true) :
    presentWord w s = .next { s with port := some w } := by
  cases hw : decode w with
  | ok i =>
    have hheld : (isSerialInstr i && s.busy) = true := by rw [← isSerialWord_of_decode hw]; exact h
    rw [presentWord_ok hw, exec_eq, if_pos hheld, encode_of_decode hw]
    rfl
  | error e => exact presentWord_illegal_held hw h

/-- A word that the block does not hold, legal or not, is accepted in the step that presents it. -/
theorem presentWord_accepted {w : Word} {s : State} (h : s.holds w = false) :
    ∃ t, presentWord w s = .next t ∧ t.port = none := by
  cases hw : decode w with
  | ok i =>
    have hfree : acceptedNow i s = true := by
      rw [acceptedNow, ← isSerialWord_of_decode hw]
      exact congrArg not h
    exact ⟨_, (presentWord_ok hw s).trans (exec_accepted hfree), commandEffect_port i s.accept⟩
  | error e => exact ⟨_, presentWord_illegal_accepted hw h, rfl⟩

theorem exec_idle {s : State} (h : s.q = []) (i : Instr) : exec i s = .next (commandEffect i s.accept) :=
  exec_accepted (by simp [acceptedNow, State.busy, h])

end Sys2Proof.Machine
end

section
/-! SUPPORT. What bus steps make of Q and of the latches (41_serial_bus.md R141, R159), and from it the two statements on a
list of events that every command's rule makes: how long BUSY lasts, and what a pin failure leaves. -/

namespace Sys2Proof.Machine

/-! ### One bus step -/

theorem step_serial {s : State} {rest : List Turn} (h : s.turns = .serial :: rest) :
    step s = .next (busStep { s with turns := rest, stepNo := s.stepNo + 1 }) := step_turn h

theorem busStep_q_of_failure {s : State} (h : s.pinFault = true) : (busStep s).q = [] := by
  obtain ⟨hq, hs⟩ | ⟨e, rest, -, ⟨-, hs⟩ | ⟨hok, -⟩⟩ := busStep_cases s
  · rw [hs, hq]
  · rw [hs]; rfl
  · cases h.symm.trans hok

theorem busStep_q_of_ok {s : State} (h : s.pinFault = false) : (busStep s).q = s.q.tail := by
  obtain ⟨hq, hs⟩ | ⟨e, rest, hq, ⟨hfail, -⟩ | ⟨-, hs⟩⟩ := busStep_cases s
  · rw [hs, hq]; rfl
  · cases hfail.symm.trans h
  · rw [hs, hq]; rfl

/-- A bus step takes at least one event off Q, failures or not. -/
theorem busStep_q_length_le (s : State) : (busStep s).q.length ≤ s.q.length - 1 := by
  cases h : s.pinFault
  · rw [busStep_q_of_ok h, List.length_tail]
  · simp [busStep_q_of_failure h]

theorem busStep_pinsAnswerOk {s : State} (h : s.pinsAnswerOk = true) : (busStep s).pinsAnswerOk = true := by
  obtain ⟨-, hs⟩ | ⟨e, rest, -, ⟨-, hs⟩ | ⟨-, hs⟩⟩ := busStep_cases s <;> rw [hs]
  · exact h
  · exact takeAnswer_answerOk h
  · exact takeAnswer_answerOk h

/-- The failure of a bus step on `e` writes the pins, Q, the wire trace and the error report, and nothing else. -/
theorem busFailure_frame (s : State) (e : PinEvent) : s.busFailure e = { s with
    q := [], wireTrace := s.wireTrace ++ [.failed e], errCode := .pinFailure, faults := s.faults ++ [.bus e],
    draws := s.draws + 1, clkOut := (s.busFailure e).clkOut, dioOut := (s.busFailure e).dioOut,
    dioDir := (s.busFailure e).dioDir } := rfl

/-- Of the latches a failure on `e` writes at most the one that `e` is about (41_serial_bus.md R159). -/
theorem busFailure_latches (s : State) (e : PinEvent) :
    ((∃ b, e = .clk b) ∨ (s.busFailure e).clkOut = s.clkOut) ∧
      ((∃ b, e = .dio b) ∨ (s.busFailure e).dioOut = s.dioOut) ∧ ((∃ d, e = .dir d) ∨ (s.busFailure e).dioDir = s.dioDir) := by
  cases e with
  | clk b => exact ⟨.inl ⟨b, rfl⟩, .inr rfl, .inr rfl⟩
  | dio b => exact ⟨.inr rfl, .inl ⟨b, rfl⟩, .inr rfl⟩
  | dir d => exact ⟨.inr rfl, .inr rfl, .inl ⟨d, rfl⟩⟩

/-! ### Several bus steps -/

/-- The last of `n + 1` bus steps comes after the first `n`. -/
theorem busSteps_succ_last (n : Nat) (s : State) : busSteps (n + 1) s = busStep (busSteps n s) := by
  induction n generalizing s with
  | zero => rfl
  | succ n ih => exact ih (busStep s)

theorem busSteps_q_length_le (n : Nat) (s : State) : (busSteps n s).q.length ≤ s.q.length - n := by
  induction n generalizing s with
  | zero => exact Nat.le_refl _
  | succ n ih =>
    have hrest := ih (busStep s)
    have hfirst := busStep_q_length_le s
    rw [busSteps]
    omega

/-- As many bus steps as Q has events empty it, failures or not (41_serial_bus.md R142). -/
theorem busSteps_drain (s : State) : (busSteps s.q.length s).busy = false := by
  have h := busSteps_q_length_le s.q.length s
  rw [busy_eq_false_iff, ← List.length_eq_zero_iff]
  omega

/-- While no pin write fails, `n` bus steps take the first `n` events off Q. -/
theorem busSteps_q_of_ok (n : Nat) {s : State} (h : s.pinsAnswerOk = true) : (busSteps n s).q = s.q.drop n := by
  induction n generalizing s with
  | zero => rfl
  | succ n ih => rw [busSteps, ih (busStep_pinsAnswerOk h), busStep_q_of_ok (pinFault_of_answerOk h), List.drop_tail]

/-! ### A list of events in Q -/

theorem busyForSteps_q_length (s : State) : BusyForSteps s.q.length s := by
  intro _ hok k
  have hempty : (busSteps k s).busy = false ↔ s.q.length ≤ k := by
    rw [busy_eq_false_iff, busSteps_q_of_ok k hok, List.drop_eq_nil_iff]
  by_cases hk : k < s.q.length
  · rw [decide_eq_true hk, ← Bool.not_eq_false, hempty]; omega
  · rw [decide_eq_false hk, hempty]; omega

theorem pinFailureCutsShort (s : State) : PinFailureCutsShort s := by
  intro k hq hfail
  obtain ⟨e, rest, hcons⟩ := List.exists_cons_of_ne_nil hq
  rw [busSteps_succ_last, busStep_failed hcons hfail]
  exact ⟨rfl, rfl⟩

theorem State.enqueue_idle {s : State} (h : s.q = []) (es : List PinEvent) : s.enqueue es = { s with q := es } := by
  rw [State.enqueue, h, List.nil_append]

/-- A command whose effect on an idle engine is to put the events `es` into Q and succeed does so with BUSY for as many bus
steps, unless a pin failure cuts them short. -/
theorem exec_puts_events {i : Instr} {s : State} {es : List PinEvent} (hq : s.q = [])
    (heffect : commandEffect i s.accept = { s with port := none, errCode := .ok, q := es }) :
    ∃ t, exec i s = .next t ∧ t = { s with port := none, errCode := .ok, q := es } ∧
      BusyForSteps es.length t ∧ PinFailureCutsShort t :=
  ⟨_, exec_idle hq i, heffect, heffect ▸ busyForSteps_q_length _, pinFailureCutsShort _⟩

end Sys2Proof.Machine
end

section
/-! SUPPORT. The event lists written out (41_serial_bus.md R145, R148, 30_encoding.md R101 to R104), and the effects of the
serial-class commands by the outcome of their checks. -/

namespace Sys2Proof.Machine

/-! ### Event lists -/

theorem bitsSeq_eq (b : Byte) :
    bitsSeq b = (bitsLsbFirst b).flatMap fun v => [PinEvent.clk 0#1, .dio v, .clk 1#1] := by
  have hbit : ∀ k, b.extractLsb' k 1 = BitVec.ofBool (b.getLsbD k) := fun k => by
    ext j hj
    obtain rfl : j = 0 := by omega
    simp
  simp [bitsSeq, bitSeq, bitsLsbFirst, hbit, List.range_succ]

theorem byteSeq_eq (p : Params) (b : Byte) :
    byteSeq p b = (bitsLsbFirst b).flatMap (fun v => [PinEvent.clk 0#1, .dio v, .clk 1#1]) ++ p.ackSeq := by
  rw [byteSeq, bitsSeq_eq]

theorem byteSeq_length (p : Params) (b : Byte) : (byteSeq p b).length = 24 + p.ackSeq.length := List.length_append

theorem sessionSeq_length {p : Params} (h : p.ackSeq.length = 5) (a : BitVec 4) (patterns : List Byte) (level : BitVec 3) :
    (sessionSeq p a patterns level).length = 111 + 29 * patterns.length := by
  have hbyte : ∀ b, (byteSeq p b).length = 29 := fun b => by rw [byteSeq_length, h]
  have hpatterns : (patterns.flatMap (byteSeq p)).length = 29 * patterns.length := by
    rw [List.length_flatMap, List.map_congr_left fun b _ => hbyte b]; simp [Nat.mul_comm]
  simp only [sessionSeq, turnaround, List.length_append, hbyte, hpatterns]
  simp [startSeq, stopSeq]; omega

/-- The three frames of the grammar (30_encoding.md R104), segment by segment, are the session. -/
theorem sessionSeq_eq_segments (p : Params) (a : BitVec 4) (patterns : List Byte) (level : BitVec 3) :
    sessionSeq p a patterns level
      = (sessionSegments p.cmdData (addrByte p a) patterns (ctrlByte p level)).flatMap (segmentEvents p) := by
  simp [sessionSegments, sessionSeq, turnaround, segmentEvents, List.flatMap_map]

/-! ### The effects of the serial-class commands -/

theorem State.patterns_length (s : State) {n : BitVec 4} (h : n.toNat ≤ 6) : (s.patterns n).length = n.toNat := by
  simp [State.patterns, h]

theorem setSegments_inRange {addr n : BitVec 4} {s : State} (h : sessionInRange s.params.consts addr n = true) :
    commandEffect (.setSegments addr n) s.accept = { s with
      port := none, errCode := .ok, q := sessionSeq s.params addr (s.patterns n) s.bright } := by
  rw [commandEffect, setSegmentsEffect, if_pos (show sessionInRange s.accept.params.consts addr n = true from h)]; rfl

theorem setSegments_outOfRange {addr n : BitVec 4} {s : State} (h : sessionInRange s.params.consts addr n = false) :
    commandEffect (.setSegments addr n) s.accept = { s with port := none, errCode := .invalidArgument } := by
  rw [commandEffect, setSegmentsEffect, show sessionInRange s.accept.params.consts addr n = false from h]; rfl

theorem setIfInBounds_eq_set {n k : Nat} (v : Vector Byte n) (b : Byte) (hk : k < n) :
    v.setIfInBounds k b = v.set k b hk :=
  Vector.ext fun _ _ => by rw [Vector.getElem_setIfInBounds, Vector.getElem_set]

theorem segLoadEffect_inRange {idx : BitVec 3} {s : State} (h : idxInRange s.params.consts idx = true)
    (hidx : idx.toNat < 6) (byte : Byte) :
    segLoadEffect idx byte s = { s with segBuf := s.segBuf.set idx.toNat byte hidx, errCode := .ok } := by
  rw [segLoadEffect, if_pos h, setIfInBounds_eq_set _ _ hidx]; rfl

theorem segLoadEffect_outOfRange {idx : BitVec 3} {s : State} (h : idxInRange s.params.consts idx = false)
    (byte : Byte) : segLoadEffect idx byte s = { s with errCode := .invalidArgument } := by
  rw [segLoadEffect, h]; rfl

theorem segLoadCharEffect_valid {idx : BitVec 3} {char : Byte} {point : Bit} {s : State} {b : Byte}
    (h : idxInRange s.params.consts idx = true) (hidx : idx.toNat < 6) (hb : encodePattern s.params char point = some b) :
    segLoadCharEffect idx char point s = { s with segBuf := s.segBuf.set idx.toNat b hidx, errCode := .ok } := by
  simp only [segLoadCharEffect, if_pos h, hb, setIfInBounds_eq_set _ _ hidx]; rfl

theorem segLoadCharEffect_invalid {idx : BitVec 3} {char : Byte} {point : Bit} {s : State}
    (h : idxInRange s.params.consts idx = true) (hb : encodePattern s.params char point = none) :
    segLoadCharEffect idx char point s = { s with errCode := .invalidCharacter, errChar := char, errPos := idx } := by
  simp only [segLoadCharEffect, if_pos h, hb]; rfl

theorem segLoadCharEffect_outOfRange {idx : BitVec 3} {s : State} (h : idxInRange s.params.consts idx = false)
    (char : Byte) (point : Bit) : segLoadCharEffect idx char point s = { s with errCode := .invalidArgument } := by
  rw [segLoadCharEffect, h]; rfl

/-- BRIGHT is the uppermost field of STATUS (10_state.md R34). -/
theorem status_bright (s : State) : s.status.extractLsb' 29 3 = s.bright := BitVec.extractLsb'_append_eq_left

end Sys2Proof.Machine
end

section
/-! PROOFS. The statements of 41_serial_bus.md on the serial-class commands, the bus step and the session. -/

namespace Sys2Proof.Proofs

open Sys2Proof.Machine

/-- Settles O18: the command puts the start sequence into an empty Q. -/
theorem busStartQueuesStartSequence : Obligations.BusStartQueuesStartSequence := by
  refine ⟨fun s hq => exec_puts_events hq ?_, reservedZeroBits_illegal 0x2#4⟩
  rw [commandEffect, State.enqueue_idle (s := s.accept) hq]; rfl

/-- Settles O19: the command puts the stop sequence into an empty Q. -/
theorem busStopQueuesStopSequence : Obligations.BusStopQueuesStopSequence := by
  refine ⟨fun s hq => exec_puts_events hq ?_, reservedZeroBits_illegal 0x3#4⟩
  rw [commandEffect, State.enqueue_idle (s := s.accept) hq]; rfl

/-- Settles O20: the command puts the byte's sequence into an empty Q; with the default acknowledgement of five events it has
29. -/
theorem busWriteQueuesByteSequence : Obligations.BusWriteQueuesByteSequence := by
  refine ⟨fun byte s hq => ?_, reservedZeroBits_illegal 0x4#4⟩
  have heffect : commandEffect (.busWrite byte) s.accept
      = { s with port := none, errCode := .ok, q := byteSeq s.params byte } := by
    rw [commandEffect, State.enqueue_idle (s := s.accept) hq]; rfl
  obtain ⟨t, hexec, ht, hbusy, hcut⟩ := exec_puts_events hq heffect
  refine ⟨t, hexec, byteSeq_eq s.params byte ▸ ht, fun hack => ?_, hcut⟩
  rw [byteSeq_length, hack] at hbusy
  exact hbusy

/-- Settles O21: the index check selects the effect, and an index in range lies within the buffer. -/
theorem segLoadWritesOneEntry : Obligations.SegLoadWritesOneEntry := by
  refine ⟨fun idx byte s hmbpe hq => ?_, reservedZeroBits_illegal 0x5#4⟩
  have hcheck : idxInRange s.accept.params.consts idx = decide (idx.toNat < 6) := hmbpe ▸ mbpe_idxInRange idx
  rw [exec_idle hq, commandEffect]
  refine ⟨fun hidx => ?_, fun hidx => ?_⟩
  · rw [segLoadEffect_inRange (hcheck.trans (decide_eq_true hidx)) hidx]; rfl
  · rw [segLoadEffect_outOfRange (hcheck.trans (decide_eq_false (by omega)))]; rfl

/-- Settles O22: the index check comes first, and within it the encoded character selects the effect. -/
theorem segLoadCharWritesEncodedEntry : Obligations.SegLoadCharWritesEncodedEntry := by
  refine ⟨fun idx char point s hmbpe hq => ?_, reservedZeroBits_illegal 0x6#4⟩
  have hcheck : idxInRange s.accept.params.consts idx = decide (idx.toNat < 6) := hmbpe ▸ mbpe_idxInRange idx
  rw [exec_idle hq, commandEffect]
  refine ⟨fun hidx b hb => ?_, fun hidx hb => ?_, fun hidx => ?_⟩
  · rw [segLoadCharEffect_valid (s := s.accept) (hcheck.trans (decide_eq_true hidx)) hidx hb]; rfl
  · rw [segLoadCharEffect_invalid (s := s.accept) (hcheck.trans (decide_eq_true hidx)) hb]; rfl
  · rw [segLoadCharEffect_outOfRange (hcheck.trans (decide_eq_false (by omega)))]; rfl

/-- Settles O23: the command leaves Q empty and the buffer as it was, so a SET_SEGMENTS after it is accepted and reads the new
level. -/
theorem setBrightnessWritesLevel : Obligations.SetBrightnessWritesLevel := by
  refine ⟨fun level s hq => ⟨_, exec_idle hq _, rfl, status_bright _, fun addr n hmbpe haddr hn => ?_⟩,
    reservedZeroBits_illegal 0x8#4⟩
  have hidle : (commandEffect (.setBrightness level) s.accept).q = [] := hq
  have hrange : sessionInRange (commandEffect (.setBrightness level) s.accept).params.consts addr n = true :=
    hmbpe ▸ (mbpe_sessionInRange addr n).2 ⟨haddr, hn⟩
  exact ⟨_, exec_idle hidle _, by rw [setSegments_inRange hrange]; rfl⟩

/-- Settles O24: the range check selects the effect; with the default acknowledgement of five events, and the N patterns that a
buffer of six has for an N in range, the session's events number 111 + 29 N. -/
theorem setSegmentsQueuesSession : Obligations.SetSegmentsQueuesSession := by
  refine ⟨fun addr n s hmbpe hq => ⟨fun haddr hn => ?_, fun hout => ?_⟩, reservedZeroBits_illegal 0x7#4⟩
  · have hrange : sessionInRange s.params.consts addr n = true := hmbpe ▸ (mbpe_sessionInRange addr n).2 ⟨haddr, hn⟩
    obtain ⟨t, hexec, ht, hbusy, hcut⟩ := exec_puts_events hq (setSegments_inRange hrange)
    refine ⟨t, hexec, ht, fun hack => ?_, hcut⟩
    rw [sessionSeq_length (by rw [hack]; rfl), s.patterns_length (by omega)] at hbusy
    exact hbusy
  · have hrange : sessionInRange s.params.consts addr n = false := by
      rw [hmbpe, Bool.eq_false_iff, ne_eq, mbpe_sessionInRange]; omega
    rw [exec_idle hq, setSegments_outOfRange hrange]

/-- Settles O29: a word is held exactly if it is of the serial class and Q is not empty, and each bus step takes at least one
event off Q. -/
theorem serialCommandsHeldWhileBusy : Obligations.SerialCommandsHeldWhileBusy := by
  refine ⟨fun w s hw hq => ⟨presentWord_held ((holds_iff w s).2 ⟨hw, hq⟩), rfl⟩, fun w s h => ?_, busSteps_drain⟩
  refine presentWord_accepted (Bool.eq_false_iff.2 fun hheld => ?_)
  obtain ⟨hw, hq⟩ := (holds_iff w s).1 hheld
  obtain hw' | hq' := h
  · cases hw.symm.trans hw'
  · exact hq hq'

/-- Settles O37: the serial turn is a bus step, which does nothing, performs the head or fails; a performed event writes the
latch it names. -/
theorem busStepPerformsHead : Obligations.BusStepPerformsHead := by
  refine ⟨fun s rest hturns hq => ?_, fun s rest e es hturns hq hok => ?_, fun s rest e es hturns hq hfail => ?_⟩
  · exact (step_serial hturns).trans (congrArg _ (busStep_idle hq))
  · refine ⟨_, (step_serial hturns).trans (congrArg _ (busStep_ok hq hok)), rfl, ?_, ?_, ?_⟩
    all_goals rintro b rfl; exact ⟨rfl, rfl, rfl⟩
  · exact ⟨_, (step_serial hturns).trans (congrArg _ (busStep_failed hq hfail)), rfl, rfl, rfl, rfl⟩

/-- Settles O38: the serial turn is the failure of the head, which leaves free the one latch that the head is about. -/
theorem busStepFailureDiscardsQueue : Obligations.BusStepFailureDiscardsQueue := by
  intro s rest e es hturns hq hfail
  refine ⟨_, (step_serial hturns).trans (congrArg _ (busStep_failed hq hfail)), ?_, busFailure_latches _ e⟩
  exact busFailure_frame _ e

/-- Settles O40: the lists of the session's parts written out, and the session as the segments of the three frames. -/
theorem sessionFollowsFrameGrammar : Obligations.SessionFollowsFrameGrammar := by
  intro p a patterns level
  refine ⟨?_, sessionSeq_eq_segments p a patterns level⟩
  simp only [← byteSeq_eq]
  rfl

end Sys2Proof.Proofs
end

section
/-! SUPPORT. What the actions of the traffic FSM and its commands do with the MBPE's numbers (43_traffic_light.md R212 to R224),
by the environment's answers to their lamp writes (R229). A chain of actions is rewritten action by action; there `by exact`
puts off a premise until the rewriting has found the state that the action starts from. -/

namespace Sys2Proof.Machine

/-! ### The answers to the coming pin writes -/

theorem State.answer_zero (s : State) : s.answer 0 = s.pinFault := by
  cases h : s.pinFaults <;> simp [State.answer, State.pinFault, h]

/-- The next `n` pin writes succeed. -/
def State.AnswersOk (s : State) (n : Nat) : Prop := ∀ k < n, s.answer k = false

theorem answersOk_of_pinsAnswerOk {s : State} (h : s.pinsAnswerOk = true) (n : Nat) : s.AnswersOk n := by
  intro k _
  rw [State.answer, List.getD_eq_getElem?_getD]
  cases hk : s.pinFaults[k]? with
  | none => rfl
  | some b => simpa using List.all_eq_true.1 h b (List.mem_of_getElem? hk)

theorem State.answersOk_zero (s : State) : s.AnswersOk 0 := fun _ hk => absurd hk (Nat.not_lt_zero _)

theorem State.AnswersOk.succ {s : State} {n : Nat} (h : s.AnswersOk n) (hn : s.answer n = false) : s.AnswersOk (n + 1) :=
  Nat.forall_lt_succ_right.2 ⟨h, hn⟩

/-- After `n` pin writes the answers to come are those from the `n`-th on. -/
theorem answer_of_dropped {s t : State} {n : Nat} (h : t.pinFaults = s.pinFaults.drop n) (k : Nat) :
    t.answer k = s.answer (n + k) := by
  simp only [State.answer, h, List.getD_eq_getElem?_getD, List.getElem?_drop]

theorem State.AnswersOk.dropped {s t : State} {n m : Nat} (h : s.AnswersOk (n + m)) (ht : t.pinFaults = s.pinFaults.drop n) :
    t.AnswersOk m := fun k hk => (answer_of_dropped ht k).trans (h _ (by omega))

theorem State.AnswersOk.mono {s : State} {n m : Nat} (h : s.AnswersOk n) (hm : m ≤ n) : s.AnswersOk m :=
  fun k hk => h k (by omega)

/-! ### Lamp writes -/

theorem lampWrite_answered {s : State} (h : s.answer 0 = false) (l : Lamp) (b : Bit) (rest : State → State) :
    lampWrite l b rest s = rest ({ s with pinFaults := s.pinFaults.drop 1 }.setLamp l b) := by
  rw [lampWrite_ok (s.answer_zero ▸ h), List.drop_one]; rfl

/-- A failed lamp write leaves the lamp at some level, stops the cycle, reports the failure and cuts off the rest of the step
(43_traffic_light.md R229). -/
theorem lampWrite_cut {s : State} (h : s.answer 0 = true) (l : Lamp) (b : Bit) (rest : State → State) :
    ∃ level : Bit, lampWrite l b rest s = { s.setLamp l level with
      tlRun := 0#1, errCode := .pinFailure, faults := s.faults ++ [.lamp l b], pinFaults := s.pinFaults.drop 1,
      draws := s.draws + 1 } := by
  refine ⟨s.failedLevel, ?_⟩
  rw [lampWrite_failed (s.answer_zero ▸ h), lampFailure_eq, List.drop_one]
  cases l <;> rfl

/-! ### Entries and exits of the phases -/

theorem State.notify_eq_noticeIf (s : State) (p : Phase) (d : Byte) :
    s.notify p d = { s with phaseTrace := s.phaseTrace ++ noticeIf s.tlCbEn (phaseBits p) d } := s.notify_eq p d

theorem mbpe_ticksOf_steadyGreen {g : Byte} (h : 5 ≤ g.toNat) :
    mbpeConstants.ticksOf (mbpeConstants.steadyGreen g) = BitVec.ofNat 9 (2 * (g.toNat - 3)) := by
  rw [mbpe_steadyGreen, mbpe_ticksOf, BitVec.toNat_sub_of_le (by rw [BitVec.le_def]; simp; omega)]; rfl

variable {s : State}

theorem enterGreen_of_ok (hmbpe : s.IsMbpe) (hg : 5 ≤ s.tlG.toNat) (hok : s.AnswersOk 1) : enterGreen s = { s with
    lampG := 1#1, tlPhase := .green, tlCnt := BitVec.ofNat 9 (2 * (s.tlG.toNat - 3)),
    phaseTrace := s.phaseTrace ++ noticeIf s.tlCbEn 1#2 s.tlG, pinFaults := s.pinFaults.drop 1 } := by
  rw [enterGreen, lampWrite_answered (hok 0 (by decide)), State.notify_eq_noticeIf,
    ← mbpe_ticksOf_steadyGreen hg, ← hmbpe]; rfl

theorem leaveRed_of_ok (hmbpe : s.IsMbpe) (hg : 5 ≤ s.tlG.toNat) (hok : s.AnswersOk 2) : leaveRed s = { s with
    lampR := 0#1, lampG := 1#1, tlPhase := .green, tlCnt := BitVec.ofNat 9 (2 * (s.tlG.toNat - 3)),
    phaseTrace := s.phaseTrace ++ noticeIf s.tlCbEn 1#2 s.tlG, pinFaults := s.pinFaults.drop 2 } := by
  rw [leaveRed, lampWrite_answered (hok 0 (by decide)), enterGreen_of_ok (by exact hmbpe) (by exact hg) (hok.dropped rfl)]
  simp only [State.setLamp, List.drop_drop]

/-- A red of 0 seconds is left in the step that enters it (43_traffic_light.md R216, R221). -/
theorem redEntered_eq (hmbpe : s.IsMbpe) : redEntered s =
    let t := { s with
      tlPhase := .red, tlCnt := BitVec.ofNat 9 (2 * s.tlR.toNat),
      phaseTrace := s.phaseTrace ++ noticeIf s.tlCbEn 0#2 s.tlR }
    if s.tlR = 0#8 then leaveRed t else t := by
  simp only [redEntered, State.notify_eq_noticeIf, hmbpe, mbpe_ticksOf_eq_zero]; rfl

theorem enterRed_stays (hmbpe : s.IsMbpe) (hr : s.tlR ≠ 0#8) (hok : s.AnswersOk 1) : enterRed s = { s with
    lampR := 1#1, tlPhase := .red, tlCnt := BitVec.ofNat 9 (2 * s.tlR.toNat),
    phaseTrace := s.phaseTrace ++ noticeIf s.tlCbEn 0#2 s.tlR, pinFaults := s.pinFaults.drop 1 } := by
  rw [enterRed, lampWrite_answered (hok 0 (by decide)), redEntered_eq (by exact hmbpe)]
  exact if_neg hr

/-- A red of 0 seconds entered, before the lamp write that leaves it. -/
def State.zeroRed (s : State) : State := { s with
  lampR := 1#1, tlPhase := .red, tlCnt := 0#9, phaseTrace := s.phaseTrace ++ noticeIf s.tlCbEn 0#2 0#8,
  pinFaults := s.pinFaults.drop 1 }

theorem enterRed_zero (hmbpe : s.IsMbpe) (hr : s.tlR = 0#8) (hok : s.AnswersOk 1) : enterRed s = leaveRed s.zeroRed := by
  rw [enterRed, lampWrite_answered (hok 0 (by decide)), redEntered_eq (by exact hmbpe)]
  refine (if_pos hr).trans (congrArg leaveRed ?_)
  simp only [State.setLamp, State.zeroRed, hr]
  rfl

theorem enterRed_passes (hmbpe : s.IsMbpe) (hg : 5 ≤ s.tlG.toNat) (hr : s.tlR = 0#8) (hok : s.AnswersOk 3) :
    enterRed s = { s with
      lampR := 0#1, lampG := 1#1, tlPhase := .green, tlCnt := BitVec.ofNat 9 (2 * (s.tlG.toNat - 3)),
      phaseTrace := s.phaseTrace ++ noticeIf s.tlCbEn 0#2 0#8 ++ noticeIf s.tlCbEn 1#2 s.tlG,
      pinFaults := s.pinFaults.drop 3 } := by
  rw [enterRed_zero hmbpe hr (hok.mono (by decide)),
    leaveRed_of_ok (s := s.zeroRed) hmbpe hg (hok.dropped rfl)]
  simp only [State.zeroRed, List.drop_drop]

theorem leaveAmber_of_ok (hok : s.AnswersOk 1) :
    leaveAmber s = enterRed { s with lampA := 0#1, pinFaults := s.pinFaults.drop 1 } :=
  lampWrite_answered (hok 0 (by decide)) ..

/-- An amber of 0 seconds is left in the step that enters it (43_traffic_light.md R219, R221). -/
theorem amberEntered_eq (hmbpe : s.IsMbpe) : amberEntered s =
    let t := { s with
      tlPhase := .amber, tlCnt := BitVec.ofNat 9 (2 * s.tlA.toNat),
      phaseTrace := s.phaseTrace ++ noticeIf s.tlCbEn 3#2 s.tlA }
    if s.tlA = 0#8 then leaveAmber t else t := by
  simp only [amberEntered, State.notify_eq_noticeIf, hmbpe, mbpe_ticksOf_eq_zero]; rfl

theorem enterAmber_stays (hmbpe : s.IsMbpe) (ha : s.tlA ≠ 0#8) (hok : s.AnswersOk 1) : enterAmber s = { s with
    lampA := 1#1, tlPhase := .amber, tlCnt := BitVec.ofNat 9 (2 * s.tlA.toNat),
    phaseTrace := s.phaseTrace ++ noticeIf s.tlCbEn 3#2 s.tlA, pinFaults := s.pinFaults.drop 1 } := by
  rw [enterAmber, lampWrite_answered (hok 0 (by decide)), amberEntered_eq (by exact hmbpe)]
  exact if_neg ha

theorem enterAmber_passes (hmbpe : s.IsMbpe) (ha : s.tlA = 0#8) (hok : s.AnswersOk 2) : enterAmber s = enterRed { s with
    lampA := 0#1, tlPhase := .amber, tlCnt := 0#9, phaseTrace := s.phaseTrace ++ noticeIf s.tlCbEn 3#2 0#8,
    pinFaults := s.pinFaults.drop 2 } := by
  rw [enterAmber, lampWrite_answered (hok 0 (by decide)), amberEntered_eq (by exact hmbpe)]
  refine (if_pos ha).trans ?_
  rw [leaveAmber_of_ok (hok.dropped rfl)]
  simp only [State.setLamp, List.drop_drop, ha]
  rfl

theorem blinkLevel_eq (k : BitVec 3) : blinkLevel k = if k.toNat % 2 = 0 then 1#1 else 0#1 := by
  revert k; decide

theorem blinkSlotEnd_next (hmbpe : s.IsMbpe) (hslot : s.tlBlink ≠ 5#3) (hok : s.AnswersOk 1) : blinkSlotEnd s = { s with
    lampG := blinkLevel s.tlBlink, tlBlink := s.tlBlink + 1#3, tlCnt := 1#9, pinFaults := s.pinFaults.drop 1 } := by
  rw [blinkSlotEnd, lampWrite_answered (hok 0 (by decide))]
  simp only [nextBlinkSlot, State.setLamp, hmbpe, mbpe_lastBlinkSlot, if_neg hslot, mbpe_slotTicks]

theorem blinkSlotEnd_last (hmbpe : s.IsMbpe) (hslot : s.tlBlink = 5#3) (hok : s.AnswersOk 1) :
    blinkSlotEnd s = enterAmber { s with lampG := 0#1, pinFaults := s.pinFaults.drop 1 } := by
  rw [blinkSlotEnd, lampWrite_answered (hok 0 (by decide))]
  simp only [nextBlinkSlot, State.setLamp, hmbpe, mbpe_lastBlinkSlot, if_pos hslot]
  rw [hslot]; rfl

/-! ### Exits with the entries after them -/

theorem leaveAmber_stays (hmbpe : s.IsMbpe) (hr : s.tlR ≠ 0#8) (hok : s.AnswersOk 2) : leaveAmber s = { s with
    lampA := 0#1, lampR := 1#1, tlPhase := .red, tlCnt := BitVec.ofNat 9 (2 * s.tlR.toNat),
    phaseTrace := s.phaseTrace ++ noticeIf s.tlCbEn 0#2 s.tlR, pinFaults := s.pinFaults.drop 2 } := by
  rw [leaveAmber_of_ok (hok.mono (by decide)),
    enterRed_stays (by exact hmbpe) (by exact hr) (hok.dropped rfl), List.drop_drop]

theorem leaveAmber_passes (hmbpe : s.IsMbpe) (hg : 5 ≤ s.tlG.toNat) (hr : s.tlR = 0#8) (hok : s.AnswersOk 4) :
    leaveAmber s = { s with
      lampA := 0#1, lampR := 0#1, lampG := 1#1, tlPhase := .green, tlCnt := BitVec.ofNat 9 (2 * (s.tlG.toNat - 3)),
      phaseTrace := s.phaseTrace ++ noticeIf s.tlCbEn 0#2 0#8 ++ noticeIf s.tlCbEn 1#2 s.tlG,
      pinFaults := s.pinFaults.drop 4 } := by
  rw [leaveAmber_of_ok (hok.mono (by decide)),
    enterRed_passes (by exact hmbpe) (by exact hg) (by exact hr) (hok.dropped rfl), List.drop_drop]

theorem blinkSlotEnd_amber (hmbpe : s.IsMbpe) (hslot : s.tlBlink = 5#3) (ha : s.tlA ≠ 0#8) (hok : s.AnswersOk 2) :
    blinkSlotEnd s = { s with
      lampG := 0#1, lampA := 1#1, tlPhase := .amber, tlCnt := BitVec.ofNat 9 (2 * s.tlA.toNat),
      phaseTrace := s.phaseTrace ++ noticeIf s.tlCbEn 3#2 s.tlA, pinFaults := s.pinFaults.drop 2 } := by
  rw [blinkSlotEnd_last hmbpe hslot (hok.mono (by decide)),
    enterAmber_stays (by exact hmbpe) (by exact ha) (hok.dropped rfl), List.drop_drop]

/-- With an amber of 0 seconds the last blink slot leads into Red. -/
theorem blinkSlotEnd_enterRed (hmbpe : s.IsMbpe) (hslot : s.tlBlink = 5#3) (ha : s.tlA = 0#8) (hok : s.AnswersOk 3) :
    blinkSlotEnd s = enterRed { s with
      lampG := 0#1, lampA := 0#1, tlPhase := .amber, tlCnt := 0#9,
      phaseTrace := s.phaseTrace ++ noticeIf s.tlCbEn 3#2 0#8, pinFaults := s.pinFaults.drop 3 } := by
  rw [blinkSlotEnd_last hmbpe hslot (hok.mono (by decide)),
    enterAmber_passes (by exact hmbpe) (by exact ha) (hok.dropped rfl), List.drop_drop]

theorem blinkSlotEnd_red (hmbpe : s.IsMbpe) (hslot : s.tlBlink = 5#3) (ha : s.tlA = 0#8) (hr : s.tlR ≠ 0#8)
    (hok : s.AnswersOk 4) : blinkSlotEnd s = { s with
      lampG := 0#1, lampA := 0#1, lampR := 1#1, tlPhase := .red, tlCnt := BitVec.ofNat 9 (2 * s.tlR.toNat),
      phaseTrace := s.phaseTrace ++ noticeIf s.tlCbEn 3#2 0#8 ++ noticeIf s.tlCbEn 0#2 s.tlR,
      pinFaults := s.pinFaults.drop 4 } := by
  rw [blinkSlotEnd_enterRed hmbpe hslot ha (hok.mono (by decide)),
    enterRed_stays (by exact hmbpe) (by exact hr) (hok.dropped rfl), List.drop_drop]

theorem blinkSlotEnd_green (hmbpe : s.IsMbpe) (hg : 5 ≤ s.tlG.toNat) (hslot : s.tlBlink = 5#3) (ha : s.tlA = 0#8)
    (hr : s.tlR = 0#8) (hok : s.AnswersOk 6) : blinkSlotEnd s = { s with
      lampG := 1#1, lampA := 0#1, lampR := 0#1, tlPhase := .green, tlCnt := BitVec.ofNat 9 (2 * (s.tlG.toNat - 3)),
      phaseTrace := s.phaseTrace ++ noticeIf s.tlCbEn 3#2 0#8 ++ noticeIf s.tlCbEn 0#2 0#8
        ++ noticeIf s.tlCbEn 1#2 s.tlG,
      pinFaults := s.pinFaults.drop 6 } := by
  rw [blinkSlotEnd_enterRed hmbpe hslot ha (hok.mono (by decide)),
    enterRed_passes (by exact hmbpe) (by exact hg) (by exact hr) (hok.dropped rfl), List.drop_drop]

/-! ### A failed lamp write in enter(RED) or leave(RED) -/

theorem enterRed_cut (h : s.answer 0 = true) : ∃ level : Bit, enterRed s = { s with
    tlRun := 0#1, lampR := level, errCode := .pinFailure, faults := s.faults ++ [.lamp .red 1#1],
    pinFaults := s.pinFaults.drop 1, draws := s.draws + 1 } := lampWrite_cut h ..

theorem leaveRed_cut_red (h : s.answer 0 = true) : ∃ level : Bit, leaveRed s = { s with
    tlRun := 0#1, lampR := level, errCode := .pinFailure, faults := s.faults ++ [.lamp .red 0#1],
    pinFaults := s.pinFaults.drop 1, draws := s.draws + 1 } := lampWrite_cut h ..

theorem leaveRed_cut_green (h : s.answer 0 = false) (h' : s.answer 1 = true) : ∃ level : Bit, leaveRed s = { s with
    tlRun := 0#1, lampR := 0#1, lampG := level, errCode := .pinFailure, faults := s.faults ++ [.lamp .green 1#1],
    pinFaults := s.pinFaults.drop 2, draws := s.draws + 1 } := by
  rw [leaveRed, lampWrite_answered h, enterGreen]
  obtain ⟨level, hlevel⟩ := lampWrite_cut (s := { s with lampR := 0#1, pinFaults := s.pinFaults.drop 1 })
    ((answer_of_dropped rfl 0).trans h') .green 1#1 _
  refine ⟨level, hlevel.trans ?_⟩
  simp only [State.setLamp, List.drop_drop]

/-! ### The TICK that ends a wait -/

section
variable (hmbpe : s.IsMbpe) (hrun : s.tlRun = 1#1) (hcnt : s.tlCnt = 1#9) (hg : 5 ≤ s.tlG.toNat)
include hmbpe hrun hcnt hg

/-- A TICK of a running cycle at a count of 1 ends the wait, within the values that R217 and 10_state.md R51 allow. -/
theorem tick_ends (hslot : s.tlPhase = .greenBlink → s.tlBlink.toNat ≤ 5) :
    tick s = .next (waitEnd { s with tlCnt := 0#9 }) := by
  have hrange : s.tickInRange = true := by
    simp only [State.tickInRange, hmbpe, hcnt, mbpe_lastBlinkSlot, Bool.and_eq_true, Bool.or_eq_true, decide_eq_true_eq]
    exact ⟨⟨by decide, hg⟩, imp_iff_not_or.1 hslot⟩
  rw [tick_running (by rw [hrun]; decide) hrange, runningTick_ends (by rw [hcnt]; decide)]

theorem tick_ends_red (hphase : s.tlPhase = .red) : tick s = .next (leaveRed { s with tlCnt := 0#9 }) := by
  rw [tick_ends hmbpe hrun hcnt hg (by simp [hphase]), waitEnd, hphase]

theorem tick_ends_green (hphase : s.tlPhase = .green) : tick s = .next (leaveGreen { s with tlCnt := 0#9 }) := by
  rw [tick_ends hmbpe hrun hcnt hg (by simp [hphase]), waitEnd, hphase]

theorem tick_ends_greenBlink (hphase : s.tlPhase = .greenBlink) (hslot : s.tlBlink.toNat ≤ 5) :
    tick s = .next (blinkSlotEnd { s with tlCnt := 0#9 }) := by
  rw [tick_ends hmbpe hrun hcnt hg (fun _ => hslot), waitEnd, hphase]

theorem tick_ends_amber (hphase : s.tlPhase = .amber) : tick s = .next (leaveAmber { s with tlCnt := 0#9 }) := by
  rw [tick_ends hmbpe hrun hcnt hg (by simp [hphase]), waitEnd, hphase]

end

/-! ### TL_START -/

/-- TL_START accepted: the durations latched and the cycle running, its Red not yet entered (43_traffic_light.md R214). -/
def State.started (s : State) : State := { s with
  port := none, errCode := .ok, tlR := s.tlCfgRed, tlA := s.tlCfgAmber, tlG := s.tlCfgGreen, tlBlink := 0#3, tlRun := 1#1 }

theorem tlStart_refused (hmbpe : s.IsMbpe) (h : s.tlCfgGreen.toNat ≤ 4) :
    exec .tlStart s = .next { s with port := none, errCode := .invalidConfiguration } := by
  have hcheck : s.accept.tlCfgGreen.toNat < s.accept.params.consts.tlGreenMin.toNat := by
    rw [State.accept_params, hmbpe]; exact Nat.lt_succ_of_le h
  exact congrArg Host.Outcome.next (if_pos hcheck)

theorem tlStart_enters (hmbpe : s.IsMbpe) (h : 4 < s.tlCfgGreen.toNat) : exec .tlStart s = .next (enterRed s.started) := by
  have hcheck : ¬ s.accept.tlCfgGreen.toNat < s.accept.params.consts.tlGreenMin.toNat := by
    rw [State.accept_params, hmbpe]; exact Nat.not_lt.2 h
  exact congrArg Host.Outcome.next (if_neg hcheck)

end Sys2Proof.Machine
end

section
/-! SUPPORT. The actions of the traffic FSM do the same whether or not they announce (43_traffic_light.md R233). -/

namespace Sys2Proof.Machine

/-- `s` with the enable and the phase-event trace replaced. -/
def State.withNotices (s : State) (en : Bit) (trace : List PhaseEvent) : State := { s with tlCbEn := en, phaseTrace := trace }

/-- `t` is `s` but for TL_CB_EN, which is set in `t` alone, and for what `t` announced after `trace`. -/
def SameButNotices (trace : List PhaseEvent) (s t : State) : Prop :=
  s.tlCbEn = 0#1 ∧ s.phaseTrace = trace ∧ ∃ events, t = s.withNotices 1#1 (trace ++ events)

/-- The actions `f` announce nothing with TL_CB_EN = 0, and with TL_CB_EN = 1 they do the same and announce. -/
def IgnoresEnable (f : State → State) : Prop :=
  ∀ ⦃trace : List PhaseEvent⦄ ⦃s t : State⦄, SameButNotices trace s t → SameButNotices trace (f s) (f t)

/-- A value read off the state depends neither on TL_CB_EN nor on the phase-event trace. -/
def ReadsNoNotice {α : Type} (g : State → α) : Prop := ∀ s en trace, g (s.withNotices en trace) = g s

theorem ReadsNoNotice.same {α : Type} {g : State → α} (hg : ReadsNoNotice g) {trace : List PhaseEvent} {s t : State}
    (h : SameButNotices trace s t) : g t = g s := by
  obtain ⟨-, -, events, rfl⟩ := h
  exact hg ..

theorem IgnoresEnable.id : IgnoresEnable fun s => s := fun _ _ _ h => h

theorem IgnoresEnable.comp {f g : State → State} (hf : IgnoresEnable f) (hg : IgnoresEnable g) :
    IgnoresEnable fun s => f (g s) := fun _ _ _ h => hf (hg h)

/-- Actions that neither write nor read TL_CB_EN and the phase-event trace ignore the enable. -/
theorem ignoresEnable_of_commutes {f : State → State}
    (h : ∀ s en trace, f (s.withNotices en trace) = (f s).withNotices en trace) : IgnoresEnable f := by
  rintro trace s _ ⟨hen, htrace, events, rfl⟩
  have hs : f s = (f s).withNotices s.tlCbEn s.phaseTrace := h s s.tlCbEn s.phaseTrace
  exact ⟨(congrArg State.tlCbEn hs).trans hen, (congrArg State.phaseTrace hs).trans htrace, events, h ..⟩

theorem IgnoresEnable.ite {c : State → Prop} [DecidablePred c] {f g : State → State}
    (hc : ReadsNoNotice c) (hf : IgnoresEnable f) (hg : IgnoresEnable g) :
    IgnoresEnable fun s => if c s then f s else g s := by
  intro trace s t h
  by_cases hs : c s
  · simpa only [hc.same h, if_pos hs] using hf h
  · simpa only [hc.same h, if_neg hs] using hg h

/-- The announcement of a phase, with the phase and its count registered. -/
theorem announce_ignoresEnable (p : Phase) {d : State → Byte} {cnt : State → BitVec 9} (hd : ReadsNoNotice d)
    (hcnt : ReadsNoNotice cnt) : IgnoresEnable fun s => { s.notify p (d s) with tlPhase := p, tlCnt := cnt s } := by
  rintro trace s _ ⟨hen, htrace, events, rfl⟩
  have hsilent : s.notify p (d s) = s := by rw [State.notify, hen]; rfl
  dsimp only
  rw [hsilent, hd, hcnt, State.notify_eq_noticeIf]
  refine ⟨hen, htrace, events ++ noticeIf 1#1 (phaseBits p) (d s), ?_⟩
  rw [← List.append_assoc]; rfl

theorem lampWrite_ignoresEnable {rest : State → State} (hrest : IgnoresEnable rest) (l : Lamp) (b : Bit) :
    IgnoresEnable (lampWrite l b rest) := by
  refine .ite (fun _ _ _ => rfl) (ignoresEnable_of_commutes fun s en trace => ?_)
    (hrest.comp (ignoresEnable_of_commutes fun s en trace => ?_))
  · cases l <;> rfl
  · cases l <;> rfl

theorem enterGreen_ignoresEnable : IgnoresEnable enterGreen :=
  lampWrite_ignoresEnable (announce_ignoresEnable .green (fun _ _ _ => rfl) fun _ _ _ => rfl) ..

theorem leaveRed_ignoresEnable : IgnoresEnable leaveRed := lampWrite_ignoresEnable enterGreen_ignoresEnable ..

theorem redEntered_ignoresEnable : IgnoresEnable redEntered :=
  (IgnoresEnable.ite (c := fun s => s.tlCnt = 0#9) (fun _ _ _ => rfl) leaveRed_ignoresEnable .id).comp
    (announce_ignoresEnable .red (fun _ _ _ => rfl) fun _ _ _ => rfl)

theorem enterRed_ignoresEnable : IgnoresEnable enterRed := lampWrite_ignoresEnable redEntered_ignoresEnable ..

theorem leaveAmber_ignoresEnable : IgnoresEnable leaveAmber := lampWrite_ignoresEnable enterRed_ignoresEnable ..

theorem amberEntered_ignoresEnable : IgnoresEnable amberEntered :=
  (IgnoresEnable.ite (c := fun s => s.tlCnt = 0#9) (fun _ _ _ => rfl) leaveAmber_ignoresEnable .id).comp
    (announce_ignoresEnable .amber (fun _ _ _ => rfl) fun _ _ _ => rfl)

theorem enterAmber_ignoresEnable : IgnoresEnable enterAmber := lampWrite_ignoresEnable amberEntered_ignoresEnable ..

theorem leaveGreen_ignoresEnable : IgnoresEnable leaveGreen := ignoresEnable_of_commutes fun _ _ _ => rfl

theorem nextBlinkSlot_ignoresEnable : IgnoresEnable nextBlinkSlot :=
  .ite (fun _ _ _ => rfl) enterAmber_ignoresEnable (ignoresEnable_of_commutes fun _ _ _ => rfl)

theorem blinkSlotEnd_ignoresEnable : IgnoresEnable blinkSlotEnd := by
  intro trace s t h
  have hslot : t.tlBlink = s.tlBlink := ReadsNoNotice.same (fun _ _ _ => rfl) h
  rw [blinkSlotEnd, blinkSlotEnd, hslot]
  exact lampWrite_ignoresEnable nextBlinkSlot_ignoresEnable _ _ h

theorem waitEnd_ignoresEnable : IgnoresEnable waitEnd := by
  intro trace s t h
  have hphase : t.tlPhase = s.tlPhase := ReadsNoNotice.same (fun _ _ _ => rfl) h
  unfold waitEnd
  rw [hphase]
  cases s.tlPhase with
  | red => exact leaveRed_ignoresEnable h
  | green => exact leaveGreen_ignoresEnable h
  | greenBlink => exact blinkSlotEnd_ignoresEnable h
  | amber => exact leaveAmber_ignoresEnable h

theorem runningTick_ignoresEnable : IgnoresEnable runningTick :=
  (IgnoresEnable.ite (c := fun s => s.tlCnt = 0#9) (fun _ _ _ => rfl) waitEnd_ignoresEnable .id).comp
    (ignoresEnable_of_commutes (f := fun s => { s with tlCnt := s.tlCnt - 1#9 }) fun _ _ _ => rfl)

/-- A TICK that answers a next state does so with TL_CB_EN set as well, to the same state but for the announcements. -/
theorem tick_ignoresEnable {trace : List PhaseEvent} {s s' t : State} (h : SameButNotices trace s s') (e : tick s = .next t) :
    ∃ t', tick s' = .next t' ∧ SameButNotices trace t t' := by
  have hrun : s'.tlRun = s.tlRun := ReadsNoNotice.same (fun _ _ _ => rfl) h
  have hrange : s'.tickInRange = s.tickInRange := ReadsNoNotice.same (fun _ _ _ => rfl) h
  obtain ⟨hstop, hs⟩ | ⟨hgo, hin, hs⟩ | ⟨-, -, hs⟩ := tick_cases s
  · cases hs.symm.trans e
    exact ⟨s', tick_stopped (hrun.trans hstop), h⟩
  · cases hs.symm.trans e
    exact ⟨runningTick s', tick_running (hrun ▸ hgo) (hrange.trans hin), runningTick_ignoresEnable h⟩
  · cases hs.symm.trans e

end Sys2Proof.Machine
end

section
/-! PROOFS. The statements of 43_traffic_light.md on the traffic commands, the ends of the waits, failed lamp writes and
notification. -/

namespace Sys2Proof.Proofs

open Sys2Proof.Machine

/-- Settles O25: SEL selects the register, whose eight bits take the value as it is with the MBPE's TL_SEC_WIDTH. -/
theorem tlConfigWritesOneDuration : Obligations.TlConfigWritesOneDuration := by
  refine ⟨fun value s hmbpe => ?_, fun value s => rfl, reservedZeroBits_illegal 0x9#4⟩
  have hvalue : s.accept.params.consts.seconds value = value := by rw [State.accept_params, hmbpe, mbpe_seconds]
  refine ⟨?_, ?_, ?_⟩
  all_goals rw [exec_accepted rfl, commandEffect]; simp only [tlConfigEffect, hvalue]; rfl

/-- Settles O26: the command writes the enable alone, and it is the enable that an entry's notification reads. -/
theorem tlCbEnableWritesEnable : Obligations.TlCbEnableWritesEnable :=
  ⟨fun _ _ => ⟨_, rfl, rfl, State.notify_eq_noticeIf _⟩, reservedZeroBits_illegal 0xC#4⟩

/-- Settles O27: the command clears TL_RUN, and a stopped FSM ignores the TICK. -/
theorem tlStopCancelsAtOnce : Obligations.TlStopCancelsAtOnce :=
  ⟨fun _ => ⟨_, rfl, rfl, tick_stopped rfl, rfl⟩, reservedZeroBits_illegal 0xB#4⟩

/-- Settles O28: an accepted TL_START is the entry of Red from the latched state, and the answers to its lamp writes and a red
of 0 seconds say how far it goes. -/
theorem tlStartValidatesAndEntersRed : Obligations.TlStartValidatesAndEntersRed := by
  refine ⟨fun s hmbpe hg => tlStart_refused hmbpe hg, fun s hmbpe hg => ?_, reservedZeroBits_illegal 0xA#4⟩
  rw [tlStart_enters hmbpe hg]
  have hfirst : s.answer 0 = false → s.started.AnswersOk 1 := s.started.answersOk_zero.succ
  refine ⟨fun hr h0 => ?_, fun hr h0 h1 h2 => ?_, fun h0 => ?_, fun hr h0 h1 => ?_, fun hr h0 h1 h2 => ?_⟩
  · rw [enterRed_stays (s := s.started) hmbpe hr (hfirst h0)]; rfl
  · rw [enterRed_passes (s := s.started) hmbpe hg hr (((hfirst h0).succ h1).succ h2), ← hr]; rfl
  · obtain ⟨level, hlevel⟩ := enterRed_cut (s := s.started) h0
    exact ⟨level, congrArg _ hlevel⟩
  · obtain ⟨level, hlevel⟩ := leaveRed_cut_red (s := s.started.zeroRed) ((answer_of_dropped rfl 0).trans h1)
    refine ⟨level, ?_⟩
    rw [enterRed_zero (s := s.started) hmbpe hr (hfirst h0), hlevel]
    simp only [State.zeroRed, State.started, hr, List.drop_drop]
  · obtain ⟨level, hlevel⟩ := leaveRed_cut_green (s := s.started.zeroRed)
      ((answer_of_dropped rfl 0).trans h1) ((answer_of_dropped rfl 1).trans h2)
    refine ⟨level, ?_⟩
    rw [enterRed_zero (s := s.started) hmbpe hr (hfirst h0), hlevel]
    simp only [State.zeroRed, State.started, hr, List.drop_drop]

/-- Settles O48: the TICK performs the exit of its phase, and each exit with the entry after it is a chain of lamp writes. -/
theorem phaseTransitions : Obligations.PhaseTransitions := by
  intro s hmbpe hrun hcnt hpins hg
  have hok := answersOk_of_pinsAnswerOk hpins
  refine ⟨fun hphase => ?_, fun hphase => ?_, fun hphase hslot => ?_, fun hphase hslot ha => ?_, fun hphase hr => ?_⟩
  · rw [tick_ends_red hmbpe hrun hcnt hg hphase]
    exact congrArg _ (leaveRed_of_ok hmbpe hg (hok 2))
  · rw [tick_ends_green hmbpe hrun hcnt hg hphase, leaveGreen, hmbpe, mbpe_slotTicks]
  · have hnotLast : s.tlBlink ≠ 5#3 := fun h => absurd (h ▸ hslot) (by decide)
    rw [tick_ends_greenBlink hmbpe hrun hcnt hg hphase (by omega), ← blinkLevel_eq]
    exact congrArg _ (blinkSlotEnd_next hmbpe hnotLast (hok 1))
  · rw [tick_ends_greenBlink hmbpe hrun hcnt hg hphase (by rw [hslot]; decide)]
    exact congrArg _ (blinkSlotEnd_amber hmbpe hslot ha (hok 2))
  · rw [tick_ends_amber hmbpe hrun hcnt hg hphase]
    exact congrArg _ (leaveAmber_stays hmbpe hr (hok 2))

/-- Settles O49: an entry of a phase of 0 seconds goes on with that phase's exit. -/
theorem zeroDurationPhasesPassThrough : Obligations.ZeroDurationPhasesPassThrough := by
  intro s hmbpe hrun hcnt hpins hg
  have hok := answersOk_of_pinsAnswerOk hpins
  refine ⟨fun hphase hr => ?_, fun hphase hslot ha hr => ?_, fun hphase hslot ha hr => ?_⟩
  · rw [tick_ends_amber hmbpe hrun hcnt hg hphase]
    exact congrArg _ (leaveAmber_passes hmbpe hg hr (hok 4))
  · rw [tick_ends_greenBlink hmbpe hrun hcnt hg hphase (by rw [hslot]; decide)]
    exact congrArg _ (blinkSlotEnd_red hmbpe hslot ha hr (hok 4))
  · rw [tick_ends_greenBlink hmbpe hrun hcnt hg hphase (by rw [hslot]; decide)]
    exact congrArg _ (blinkSlotEnd_green hmbpe hg hslot ha hr (hok 6))

/-- Settles O51: a notification is the phase-event that TL_CB_EN allows, and every action of a TICK ignores the enable but for
its notifications. -/
theorem notificationDoesNotDisturbCycle : Obligations.NotificationDoesNotDisturbCycle := by
  refine ⟨State.notify_eq_noticeIf, fun s t e => ?_⟩
  have hsame : SameButNotices s.phaseTrace { s with tlCbEn := 0#1 } { s with tlCbEn := 1#1 } :=
    ⟨rfl, rfl, [], by rw [List.append_nil]; rfl⟩
  obtain ⟨t', htick, -, htrace, events, rfl⟩ := tick_ignoresEnable hsame e
  exact ⟨htrace, events, htick⟩

/-- Settles O50: a lamp write succeeds or cuts the step, and leave(RED) is the lamp writes of red and of green. -/
theorem lampFailureCutsStep : Obligations.LampFailureCutsStep := by
  refine ⟨fun s l b rest => ⟨fun h => lampWrite_ok h l b rest, fun h => ?_⟩, fun s hmbpe hrun hcnt hphase hg => ?_⟩
  · obtain ⟨level, hlevel⟩ := lampWrite_cut (s.answer_zero.trans h) l b rest
    rw [List.drop_one] at hlevel
    exact ⟨level, hlevel, hlevel ▸ s.setLamp_phaseTrace l level⟩
  · rw [tick_ends_red hmbpe hrun hcnt hg hphase]
    refine ⟨fun h0 => ?_, fun h0 h1 => ?_⟩
    · obtain ⟨level, hlevel⟩ := leaveRed_cut_red (s := { s with tlCnt := 0#9 }) h0
      exact ⟨level, congrArg _ hlevel⟩
    · obtain ⟨level, hlevel⟩ := leaveRed_cut_green (s := { s with tlCnt := 0#9 }) h0 h1
      exact ⟨level, congrArg _ hlevel⟩

end Sys2Proof.Proofs
end

section
/-! SUPPORT. The error that an accepted command raises, in the order of 60_exceptions.md R258, and that raising it is all that
the failing command does (R252). -/

namespace Sys2Proof.Machine

/-! ### The conditions of the errors -/

/-- The range checks that the block makes of the command's operands (60_exceptions.md R255). -/
def operandsInRange (c : Constants) (i : Instr) : Bool :=
  match i with
  | .segLoad idx _ => idxInRange c idx
  | .segLoadChar idx _ _ => idxInRange c idx
  | .setSegments addr n => sessionInRange c addr n
  | .tlConfig sel _ => sel != 3#2
  | .encodeChar _ _ => true
  | .busStart => true
  | .busStop => true
  | .busWrite _ => true
  | .setBrightness _ => true
  | .tlStart => true
  | .tlStop => true
  | .tlCbEnable _ => true

/-- InvalidCharacter for a code without an index (60_exceptions.md R253), with the position the command reports. -/
def characterError (char : Byte) (pos : BitVec 3) : Option CommandError :=
  if charIndex char = none then some (.invalidCharacter char pos) else none

/-- The error of a command whose operands are in range: of its character, or of the green duration configured
(60_exceptions.md R253, R254). -/
def contentError (i : Instr) (s : State) : Option CommandError :=
  match i with
  | .encodeChar char _ => characterError char 0#3
  | .segLoadChar idx char _ => characterError char idx
  | .tlStart => if s.tlCfgGreen.toNat < s.params.consts.tlGreenMin.toNat then some .invalidConfiguration else none
  | .busStart => none
  | .busStop => none
  | .busWrite _ => none
  | .segLoad _ _ => none
  | .setSegments _ _ => none
  | .setBrightness _ => none
  | .tlConfig _ _ => none
  | .tlStop => none
  | .tlCbEnable _ => none

/-- The error that an accepted command raises, none where its checks pass: the operands come first (60_exceptions.md R258). -/
def commandError (i : Instr) (s : State) : Option CommandError :=
  if operandsInRange s.params.consts i then contentError i s else some .invalidArgument

theorem characterError_eq_some_iff {char : Byte} {pos : BitVec 3} {e : CommandError} :
    characterError char pos = some e ↔ charIndex char = none ∧ e = .invalidCharacter char pos := by
  simp [characterError, eq_comm]

theorem characterError_eq_none_iff {char : Byte} {pos : BitVec 3} : characterError char pos = none ↔ charIndex char ≠ none := by
  simp [characterError]

theorem commandError_of_inRange {i : Instr} {s : State} (h : operandsInRange s.params.consts i = true) :
    commandError i s = contentError i s := if_pos h

/-- Every error but InvalidArgument is of the content, once the operands are in range (60_exceptions.md R258). -/
theorem inRange_of_commandError_ne {i : Instr} {s : State} (h : commandError i s ≠ some .invalidArgument) :
    operandsInRange s.params.consts i = true := by
  by_contra hrange
  exact h (if_neg hrange)

theorem contentError_eq_none {i : Instr} {s : State}
    (hchar : ∀ char point, (i = .encodeChar char point ∨ ∃ idx, i = .segLoadChar idx char point) → charIndex char ≠ none)
    (hgreen : i = .tlStart → s.params.consts.tlGreenMin.toNat ≤ s.tlCfgGreen.toNat) : contentError i s = none := by
  cases i with
  | encodeChar char point => exact characterError_eq_none_iff.2 (hchar char point (.inl rfl))
  | segLoadChar idx char point => exact characterError_eq_none_iff.2 (hchar char point (.inr ⟨idx, rfl⟩))
  | tlStart => exact if_neg (Nat.not_lt.2 (hgreen rfl))
  | busStart | busStop | busWrite | segLoad | setSegments | setBrightness | tlConfig | tlStop | tlCbEnable => rfl

/-- With the MBPE's numbers the checks pass just on the commands that are well formed (30_encoding.md R92). -/
theorem mbpe_operandsInRange (i : Instr) : operandsInRange mbpeConstants i = i.wellFormed := by
  cases i with
  | segLoad idx byte => exact decide_eq_decide.2 Nat.lt_succ_iff
  | segLoadChar idx char point => exact decide_eq_decide.2 Nat.lt_succ_iff
  | setSegments addr n =>
    exact congrArg (· && decide (addr.toNat + n.toNat ≤ 6)) (decide_eq_decide.2 Nat.lt_succ_iff)
  | tlConfig sel value =>
    have hsel : ∀ sel : BitVec 2, (sel != 3#2) = decide (sel.toNat ≤ 2) := by decide
    exact hsel sel
  | encodeChar | busStart | busStop | busWrite | setBrightness | tlStart | tlStop | tlCbEnable => rfl

/-! ### A command that fails, and one that does not -/

theorem commandEffect_outOfRange {i : Instr} {s : State} (h : operandsInRange s.params.consts i = false) :
    commandEffect i s = s.raise .invalidArgument := by
  cases i with
  | segLoad idx byte => exact segLoadEffect_outOfRange h byte
  | segLoadChar idx char point => exact segLoadCharEffect_outOfRange h char point
  | setSegments addr n => exact if_neg (Bool.eq_false_iff.1 h)
  | tlConfig sel value =>
    obtain rfl : sel = 3#2 := by simpa [operandsInRange] using h
    rfl
  | encodeChar | busStart | busStop | busWrite | setBrightness | tlStart | tlStop | tlCbEnable => cases h

theorem commandEffect_contentError {i : Instr} {s : State} {e : CommandError}
    (hrange : operandsInRange s.params.consts i = true) (h : contentError i s = some e) :
    commandEffect i s = s.raise e := by
  cases i with
  | encodeChar char point =>
    obtain ⟨hchar, rfl⟩ := characterError_eq_some_iff.1 h
    exact encodeEffect_invalid (encodePattern_of_invalid hchar ..)
  | segLoadChar idx char point =>
    obtain ⟨hchar, rfl⟩ := characterError_eq_some_iff.1 h
    exact segLoadCharEffect_invalid hrange (encodePattern_of_invalid hchar ..)
  | tlStart =>
    obtain ⟨hgreen, he⟩ := Option.ite_none_right_eq_some.1 h
    cases he
    exact if_pos hgreen
  | busStart | busStop | busWrite | segLoad | setSegments | setBrightness | tlConfig | tlStop | tlCbEnable => cases h

/-- The error report is all that a failing command does (60_exceptions.md R252). -/
theorem commandEffect_of_commandError {i : Instr} {s : State} {e : CommandError} (h : commandError i s = some e) :
    commandEffect i s = s.raise e := by
  unfold commandError at h
  split at h
  · next hrange => exact commandEffect_contentError hrange h
  · next hrange => cases h; exact commandEffect_outOfRange (Bool.eq_false_iff.2 hrange)

theorem exists_encodePattern {char : Byte} (h : charIndex char ≠ none) (p : Params) (point : Bit) :
    ∃ b, encodePattern p char point = some b := by
  obtain ⟨k, hk⟩ := Option.ne_none_iff_exists'.1 h
  exact ⟨_, encodePattern_of_index hk p point⟩

theorem segLoadCharEffect_errCode_ok {idx : BitVec 3} {char : Byte} {point : Bit} {s : State} {b : Byte}
    (hrange : idxInRange s.params.consts idx = true) (hb : encodePattern s.params char point = some b) :
    (segLoadCharEffect idx char point s).errCode = .ok := by
  simp only [segLoadCharEffect, if_pos hrange, hb, State.succeed_errCode]

/-- A command whose checks pass succeeds, but for a lamp write of TL_START (60_exceptions.md R257). -/
theorem commandEffect_errCode_of_no_error {i : Instr} {s : State} (h : commandError i s = none) :
    (commandEffect i s).errCode = .ok ∨ (i = .tlStart ∧ (commandEffect i s).errCode = .pinFailure) := by
  have hrange := inRange_of_commandError_ne (h.trans_ne nofun)
  have hcontent := (commandError_of_inRange hrange).symm.trans h
  cases i with
  | encodeChar char point =>
    obtain ⟨b, hb⟩ := exists_encodePattern (characterError_eq_none_iff.1 hcontent) s.params point
    exact .inl (congrArg State.errCode (encodeEffect_valid hb))
  | segLoad idx byte => exact .inl ((segLoadEffect_errCode ..).trans (if_pos hrange))
  | segLoadChar idx char point =>
    obtain ⟨b, hb⟩ := exists_encodePattern (characterError_eq_none_iff.1 hcontent) s.params point
    exact .inl (segLoadCharEffect_errCode_ok hrange hb)
  | setSegments addr n => exact .inl ((setSegmentsEffect_errCode ..).trans (if_pos hrange))
  | tlConfig sel value => exact .inl ((tlConfigEffect_errCode ..).trans (if_neg (bne_iff_ne.1 hrange)))
  | tlStart =>
    obtain ⟨hgreen, -⟩ | ⟨-, herr⟩ := tlStartEffect_errCode s
    · exact nomatch (if_pos hgreen).symm.trans hcontent
    · exact herr.imp_right fun hpin => ⟨rfl, hpin⟩
  | busStart | busStop | busWrite | setBrightness | tlStop | tlCbEnable => exact .inl rfl

/-- InvalidCharacter is reported with the command's own character, and its position: 0 for ENCODE, IDX for SEG_LOAD_CHAR. -/
theorem instr_of_invalidCharacter {i : Instr} {s : State} {char : Byte} {pos : BitVec 3}
    (h : commandError i s = some (.invalidCharacter char pos)) :
    (∃ point, i = .encodeChar char point ∧ pos = 0#3) ∨ ∃ point, i = .segLoadChar pos char point := by
  have hrange := inRange_of_commandError_ne (h.trans_ne nofun)
  have hcontent := (commandError_of_inRange hrange).symm.trans h
  cases i with
  | encodeChar char' point =>
    cases (characterError_eq_some_iff.1 hcontent).2
    exact .inl ⟨point, rfl, rfl⟩
  | segLoadChar idx char' point =>
    cases (characterError_eq_some_iff.1 hcontent).2
    exact .inr ⟨point, rfl⟩
  | tlStart => cases (Option.ite_none_right_eq_some.1 hcontent).2
  | busStart | busStop | busWrite | segLoad | setSegments | setBrightness | tlConfig | tlStop | tlCbEnable => cases hcontent

end Sys2Proof.Machine
end

section
/-! PROOFS. The statements of 60_exceptions.md on the error report and on the order of the errors. -/

namespace Sys2Proof.Proofs

open Sys2Proof.Machine

/-- Settles O30: a command that ends with the code of a command error has raised it, and raising is all that it did. -/
theorem failingCommandIsPrecise : Obligations.FailingCommandIsPrecise := by
  refine ⟨fun i s t hacc e hok hpin => ?_, fun w e s hw hfree => presentWord_illegal_accepted hw hfree, by decide⟩
  obtain rfl : commandEffect i s.accept = t := Host.Outcome.next.inj ((exec_accepted hacc).symm.trans e)
  cases herr : commandError i s.accept with
  | none =>
    obtain h | ⟨-, h⟩ := commandEffect_errCode_of_no_error herr
    · exact absurd h hok
    · exact absurd h hpin
  | some err =>
    rw [commandEffect_of_commandError herr]
    cases err with
    | invalidCharacter char pos => exact ⟨rfl, fun h => absurd rfl h, fun _ => instr_of_invalidCharacter herr⟩
    | invalidConfiguration | invalidArgument | illegalCommand => exact ⟨rfl, fun _ => ⟨rfl, rfl⟩, nofun⟩

/-- Settles O31: the check of an illegal word, of the operands and of the content come in this order, and the first that
fails gives the error. -/
theorem errorPriority : Obligations.ErrorPriority := by
  refine ⟨fun w e s t hfree hw h => ?_, fun w i s t hmbpe hacc hw h => ?_⟩
  · cases (presentWord_illegal_accepted hw hfree).symm.trans h
    rfl
  obtain rfl : commandEffect i s.accept = t :=
    Host.Outcome.next.inj ((exec_accepted hacc).symm.trans ((presentWord_ok hw s).symm.trans h))
  have hrange : operandsInRange s.accept.params.consts i = i.wellFormed := by
    rw [State.accept_params, hmbpe, mbpe_operandsInRange]
  have hmin : s.accept.params.consts.tlGreenMin.toNat = 5 := by rw [State.accept_params, hmbpe]; rfl
  refine ⟨fun hwf => ?_, fun hwf char point hencodes hchar => ?_, fun hstart hgreen => ?_, fun hwf hchar hgreen => ?_⟩
  · exact congrArg State.errCode (commandEffect_outOfRange (hrange.trans (Bool.eq_false_iff.2 hwf)))
  · obtain rfl | ⟨idx, rfl⟩ := hencodes
    all_goals
      exact congrArg State.errCode
        (commandEffect_contentError (hrange.trans hwf) (characterError_eq_some_iff.2 ⟨hchar, rfl⟩))
  · subst hstart
    rw [Host.Outcome.next.inj ((exec_accepted hacc).symm.trans (tlStart_refused hmbpe hgreen))]
  · refine commandEffect_errCode_of_no_error ?_
    rw [commandError_of_inRange (hrange.trans hwf)]
    exact contentError_eq_none hchar fun hstart => hmin ▸ hgreen hstart

end Sys2Proof.Proofs
end

section
/-! SUPPORT. The encoding of a command is a word of the command's row: its reserved bits are zero and its operand fields are
where the row takes them from (30_encoding.md R91 to R93). -/

namespace Sys2Proof

/-- Where the command's row stands in the opcode map (30_encoding.md R93). -/
def Instr.rowIndex (i : Instr) : Fin 12 :=
  match i with
  | .encodeChar _ _ => 0
  | .busStart => 1
  | .busStop => 2
  | .busWrite _ => 3
  | .segLoad _ _ => 4
  | .segLoadChar _ _ _ => 5
  | .setSegments _ _ => 6
  | .setBrightness _ => 7
  | .tlConfig _ _ => 8
  | .tlStart => 9
  | .tlStop => 10
  | .tlCbEnable _ => 11

/-- The command's row of the opcode map. -/
def Instr.row (i : Instr) : OpcodeRow := opcodeRows.get i.rowIndex

/-- The row takes the operands back out of the fields that the encoder put them in (30_encoding.md R92). -/
theorem row_build_encode (i : Instr) : i.row.build (encode i) = i := by
  cases i <;>
    simp (disch := decide) only [Instr.row, Instr.rowIndex, opcodeRows, encode, List.get,
      BitVec.extractLsb'_append_eq_of_le, BitVec.extractLsb'_append_eq_of_add_le, BitVec.extractLsb'_eq_self, Nat.sub_self]

/-- Under the row's mask, which is 0 on the operand fields and 1 elsewhere, the encoding is the row's pattern
(30_encoding.md R91, R93). -/
theorem encode_masked (i : Instr) : encode i &&& i.row.mask = i.row.pattern := by
  cases i with
  | busStart | busStop | tlStart | tlStop => rfl
  | encodeChar char point =>
    show (0x1#4 ++ (0#19 ++ (point ++ char))) &&& (0xF#4 ++ (0x7FFFF#19 ++ (0#1 ++ 0#8))) = _
    simp only [BitVec.and_append, BitVec.and_zero, BitVec.zero_and]; rfl
  | busWrite byte =>
    show (0x4#4 ++ (0#20 ++ byte)) &&& (0xF#4 ++ (0xFFFFF#20 ++ 0#8)) = _
    simp only [BitVec.and_append, BitVec.and_zero, BitVec.zero_and]; rfl
  | segLoad idx byte =>
    show (0x5#4 ++ (0#9 ++ (idx ++ (0#8 ++ byte)))) &&& (0xF#4 ++ (0x1FF#9 ++ (0#3 ++ (0xFF#8 ++ 0#8)))) = _
    simp only [BitVec.and_append, BitVec.and_zero, BitVec.zero_and]; rfl
  | segLoadChar idx char point =>
    show (0x6#4 ++ (0#9 ++ (idx ++ (0#7 ++ (point ++ char))))) &&& (0xF#4 ++ (0x1FF#9 ++ (0#3 ++ (0x7F#7 ++ (0#1 ++ 0#8))))) = _
    simp only [BitVec.and_append, BitVec.and_zero, BitVec.zero_and]; rfl
  | setSegments addr n =>
    show (0x7#4 ++ (0#8 ++ (addr ++ (0#12 ++ n)))) &&& (0xF#4 ++ (0xFF#8 ++ (0#4 ++ (0xFFF#12 ++ 0#4)))) = _
    simp only [BitVec.and_append, BitVec.and_zero, BitVec.zero_and]; rfl
  | setBrightness level =>
    show (0x8#4 ++ (0#25 ++ level)) &&& (0xF#4 ++ (0x1FFFFFF#25 ++ 0#3)) = _
    simp only [BitVec.and_append, BitVec.and_zero, BitVec.zero_and]; rfl
  | tlConfig sel value =>
    show (0x9#4 ++ (0#10 ++ (sel ++ (0#8 ++ value)))) &&& (0xF#4 ++ (0x3FF#10 ++ (0#2 ++ (0xFF#8 ++ 0#8)))) = _
    simp only [BitVec.and_append, BitVec.and_zero, BitVec.zero_and]; rfl
  | tlCbEnable en =>
    show (0xC#4 ++ (0#27 ++ en)) &&& (0xF#4 ++ (0x7FFFFFF#27 ++ 0#1)) = _
    simp only [BitVec.and_append, BitVec.and_zero, BitVec.zero_and]; rfl

theorem decode_encode (i : Instr) : decode (encode i) = .ok i := by
  have hrow : i.row ∈ opcodeRows := List.get_mem opcodeRows i.rowIndex
  rw [decode_of_row hrow (encode_masked i), row_build_encode]

end Sys2Proof
end

section
/-! PROOFS. The statements of 30_encoding.md on the encoder and the decoder, each the inverse of the other. -/

namespace Sys2Proof.Proofs

/-- Settles O1: the encoding is a word of the command's own row, which takes the operands back out of their fields. -/
theorem decodeOfEncode : Obligations.DecodeOfEncode := decode_encode

/-- Settles O2: a row's mask covers every bit that is no operand's. -/
theorem encodeOfDecode : Obligations.EncodeOfDecode := fun _ _ => encode_of_decode

/-- Settles O4: each word is the encoding of its command. -/
theorem specWordsDecode : Obligations.SpecWordsDecode :=
  ⟨decode_encode (.encodeChar 0x61 0), decode_encode .busStart, decode_encode (.busWrite 0x40),
    decode_encode (.segLoad 2 0x63), decode_encode (.segLoadChar 1 0x32 1), decode_encode (.setSegments 2 2),
    decode_encode (.setBrightness 2), decode_encode (.tlConfig 2 5), decode_encode (.tlCbEnable 1)⟩

end Sys2Proof.Proofs
end

section
/-! SUPPORT. What a command of each class leaves alone, and what a step other than reset can make of Q, of the wire trace and of
the pin latches (10_state.md R41, R43, 20_memory.md R78, R83). -/

namespace Sys2Proof.Machine

/-! ### A command by its class -/

/-- An accepted command of the serial class writes the serial engine's registers and the error report, and nothing else
(20_memory.md R83). -/
theorem commandEffect_frame_of_serial {i : Instr} (hi : isSerialInstr i = true) (s : State) :
    commandEffect i s = { s with
      q := (commandEffect i s).q, bright := (commandEffect i s).bright, segBuf := (commandEffect i s).segBuf,
      errCode := (commandEffect i s).errCode, errChar := (commandEffect i s).errChar,
      errPos := (commandEffect i s).errPos } := by
  cases i with
  | busStart | busStop | busWrite | setBrightness => rfl
  | segLoad idx byte => rw [commandEffect, segLoadEffect_frame]
  | segLoadChar idx char point => rw [commandEffect, segLoadCharEffect_frame]
  | setSegments addr n => rw [commandEffect, setSegmentsEffect_frame]
  | encodeChar | tlConfig | tlStart | tlStop | tlCbEnable => cases hi

/-- The registers of the serial engine, with what it has put on the wire (20_memory.md R83). -/
structure Engine where
  pins : Pins
  q : List PinEvent
  bright : BitVec 3
  segBuf : Vector Byte 6
  wireTrace : List WireRecord

/-- The serial engine of a state. -/
def State.engine (s : State) : Engine :=
  { pins := s.pins, q := s.q, bright := s.bright, segBuf := s.segBuf, wireTrace := s.wireTrace }

theorem TrafficMove.engine_eq {s t : State} (h : TrafficMove s t) : t.engine = s.engine := by rw [h.frame]; rfl

/-- An accepted command of the immediate class leaves the serial engine alone (20_memory.md R83). -/
theorem commandEffect_engine_of_immediate {i : Instr} (hi : isSerialInstr i = false) (s : State) :
    (commandEffect i s).engine = s.engine := by
  cases i with
  | encodeChar char point => rw [commandEffect, encodeEffect_frame]; rfl
  | tlConfig sel value => rw [commandEffect, tlConfigEffect_frame]; rfl
  | tlStart =>
    rw [commandEffect]
    obtain h | h := tlStartEffect_cases s
    · rw [h]; rfl
    · exact h.engine_eq
  | tlStop | tlCbEnable => rfl
  | busStart | busStop | busWrite | segLoad | segLoadChar | setSegments | setBrightness => cases hi

/-! ### The wire and Q after a command -/

/-- The pins of a state with what has been put on the wire (10_state.md R41). -/
def State.wire (s : State) : Pins × List WireRecord := (s.pins, s.wireTrace)

/-- No command writes the pins or the wire trace: that is the bus step's (41_serial_bus.md R140). -/
theorem commandEffect_wire (i : Instr) (s : State) : (commandEffect i s).wire = s.wire := by
  cases hi : isSerialInstr i
  · exact congrArg (fun e : Engine => (e.pins, e.wireTrace)) (commandEffect_engine_of_immediate hi s)
  · rw [commandEffect_frame_of_serial hi]; rfl

theorem busEvents_of_immediate {i : Instr} (hi : isSerialInstr i = false) (s : State) : busEvents s i = [] := by
  cases i with
  | encodeChar | tlConfig | tlStart | tlStop | tlCbEnable => rfl
  | busStart | busStop | busWrite | segLoad | segLoadChar | setSegments | setBrightness => cases hi

/-- An accepted command appends its whole event list to Q (41_serial_bus.md R149 to R155); one of the serial class finds Q
empty (R142). -/
theorem commandEffect_q {i : Instr} {s : State} (hq : isSerialInstr i = true → s.q = []) :
    (commandEffect i s).q = s.q ++ busEvents s i := by
  cases hi : isSerialInstr i
  · rw [busEvents_of_immediate hi, List.append_nil]
    exact congrArg Engine.q (commandEffect_engine_of_immediate hi s)
  have hidle := hq hi
  cases i with
  | busStart | busStop | busWrite => rfl
  | setBrightness => exact (List.append_nil _).symm
  | segLoad idx byte => rw [commandEffect, segLoadEffect_frame]; exact (List.append_nil _).symm
  | segLoadChar idx char point => rw [commandEffect, segLoadCharEffect_frame]; exact (List.append_nil _).symm
  | setSegments addr n =>
    rw [hidle, commandEffect, setSegmentsEffect, busEvents, List.nil_append]
    split
    · rfl
    · exact hidle
  | encodeChar | tlConfig | tlStart | tlStop | tlCbEnable => cases hi

theorem accepted_idle {i : Instr} {s : State} (h : (isSerialInstr i && s.busy) = false) (hi : isSerialInstr i = true) :
    s.q = [] := by
  rw [hi, Bool.true_and] at h
  exact (busy_eq_false_iff s).1 h

/-- A command adds nothing to Q, or it puts its whole event list into an empty Q. -/
theorem exec_q {i : Instr} {s t : State} (e : exec i s = .next t) :
    t.q = s.q ∨ (s.q = [] ∧ t.q = busEvents s i) := by
  obtain ⟨-, rfl⟩ | ⟨hfree, rfl⟩ := exec_cases e
  · exact .inl rfl
  · have hq : (commandEffect i s.accept).q = s.q ++ busEvents s i := commandEffect_q (accepted_idle hfree)
    cases hi : isSerialInstr i
    · rw [busEvents_of_immediate hi, List.append_nil] at hq
      exact .inl hq
    · have hidle := accepted_idle hfree hi
      rw [hidle, List.nil_append] at hq
      exact .inr ⟨hidle, hq⟩

theorem exec_wire {i : Instr} {s t : State} (e : exec i s = .next t) : t.wire = s.wire := by
  obtain ⟨-, rfl⟩ | ⟨-, rfl⟩ := exec_cases e
  · rfl
  · exact commandEffect_wire i s.accept

/-! ### The wire and Q after a turn -/

theorem presentWord_wire {w : Word} {s t : State} (e : presentWord w s = .next t) : t.wire = s.wire := by
  cases hw : decode w with
  | ok i => exact exec_wire ((presentWord_ok hw s).symm.trans e)
  | error r => rw [illegalWord_frame ((presentWord_error hw s).symm.trans e)]; rfl

theorem presentWord_q {w : Word} {s t : State} (e : presentWord w s = .next t) :
    t.q = s.q ∨ (s.q = [] ∧ ∃ i, decode w = .ok i ∧ t.q = busEvents s i) := by
  cases hw : decode w with
  | ok i => exact (exec_q ((presentWord_ok hw s).symm.trans e)).imp_right fun ⟨hq, ht⟩ => ⟨hq, i, rfl, ht⟩
  | error r => left; rw [illegalWord_frame ((presentWord_error hw s).symm.trans e)]

theorem hostStep_wire {h : HostThread} {s t : State} (e : hostStep h s = .next t) : t.wire = s.wire := by
  obtain ⟨w, s', -, hw, hs⟩ | ht := hostStep_presents_or_frames e
  · rw [presentWord_wire hw, hs]; rfl
  · rw [ht]; rfl

/-- A host turn leaves Q as it is, or it presents a command that puts its whole event list into an empty Q. -/
theorem hostStep_q {h : HostThread} {s t : State} (e : hostStep h s = .next t) :
    t.q = s.q ∨ (s.q = [] ∧ ∃ w i, s.port.or (issuedWord (s.acts h)) = some w ∧ decode w = .ok i ∧
      t.q = busEvents s i) := by
  obtain ⟨w, s', hp, hw, hs⟩ | ht := hostStep_presents_or_frames e
  · have hq' : s'.q = s.q := by rw [hs]
    have hevents : ∀ i, busEvents s' i = busEvents s i := fun i => by rw [hs]; cases i <;> rfl
    obtain hq | ⟨hidle, i, hi, hq⟩ := presentWord_q hw
    · exact .inl (hq.trans hq')
    · exact .inr ⟨hq'.symm.trans hidle, w, i, hp, hi, hq.trans (hevents i)⟩
  · left; rw [ht]

/-- A turn of another agent than the serial engine and the reset leaves the pins and the wire trace alone. -/
theorem takeTurn_wire {turn : Turn} {s t : State} (hserial : turn ≠ .serial) (hreset : turn ≠ .reset)
    (e : takeTurn turn s = .next t) : t.wire = s.wire := by
  cases turn with
  | host | task => exact hostStep_wire e
  | tick => exact congrArg (fun e : Engine => (e.pins, e.wireTrace)) (tick_move e).engine_eq
  | serial => exact absurd rfl hserial
  | reset => exact absurd rfl hreset

/-! ### The committed output -/

/-- A bus step that fails no pin write moves an event from Q to the wire trace, so the committed output stays. -/
theorem busStep_committed {s : State} (h : (busStep s).NoFaultRecorded) : (busStep s).committed = s.committed := by
  obtain ⟨-, hs⟩ | ⟨e, rest, hq, ⟨-, hs⟩ | ⟨-, hs⟩⟩ := busStep_cases s
  · rw [hs]
  · rw [hs] at h
    exact absurd h (List.append_ne_nil_of_right_ne_nil _ (List.cons_ne_nil _ _))
  · rw [hs, State.committed, State.committed, hq, List.map_cons, List.append_cons]; rfl

/-- A turn other than reset that leaves the fault record empty keeps the committed output, or it is a host's and commits the
whole event list of the command presented, from an empty Q (20_memory.md R78, R80). -/
theorem takeTurn_committed {turn : Turn} {s t : State} (hreset : turn ≠ .reset) (e : takeTurn turn s = .next t)
    (hclean : t.NoFaultRecorded) :
    t.committed = s.committed ∨
    ((turn = .host ∨ turn = .task) ∧ s.q = [] ∧ ∃ w i, presentedWord turn s = some w ∧ decode w = .ok i ∧
      t.committed = s.committed ++ (busEvents s i).map .performed) := by
  by_cases hserial : turn = .serial
  · subst hserial
    cases e
    exact .inl (busStep_committed hclean)
  have hwire : t.wireTrace = s.wireTrace := congrArg Prod.snd (takeTurn_wire hserial hreset e)
  have hkept : t.q = s.q → t.committed = s.committed := fun hq => by rw [State.committed, hwire, hq]; rfl
  have hgrown : ∀ i, s.q = [] → t.q = busEvents s i →
      t.committed = s.committed ++ (busEvents s i).map .performed := fun i hidle hq => by
    rw [State.committed, State.committed, hwire, hq, hidle, List.map_nil, List.append_nil]
  cases turn with
  | host | task =>
    obtain hq | ⟨hidle, w, i, hp, hi, hq⟩ := hostStep_q e
    · exact .inl (hkept hq)
    · exact .inr ⟨by simp, hidle, w, i, hp, hi, hgrown i hidle hq⟩
  | tick => exact .inl (hkept (congrArg Engine.q (tick_move e).engine_eq))
  | serial => exact absurd rfl hserial
  | reset => exact absurd rfl hreset

/-! ### What every command and turn answers -/

theorem exec_answers (i : Instr) (s : State) : ∃ t, exec i s = .next t := by
  rw [exec_eq]
  split
  · exact ⟨_, rfl⟩
  · exact ⟨_, rfl⟩

theorem presentWord_answers (w : Word) (s : State) : ∃ t, presentWord w s = .next t := by
  cases h : s.holds w
  · obtain ⟨t, ht, -⟩ := presentWord_accepted h
    exact ⟨t, ht⟩
  · exact ⟨_, presentWord_held h⟩

theorem hostAct_answers_any (h : HostThread) (a : HostAct) (rest : List HostAct) (s : State) :
    ∃ t, hostAct h a rest s = .next t := by
  cases a with
  | issue w => exact presentWord_answers w _
  | readStatus | waitIdle | waitStopped | abandonOnError | pause | clear | spawn | join | clockShow => exact ⟨_, rfl⟩

theorem threadStep_answers (h : HostThread) (s : State) : ∃ t, threadStep h s = .next t := by
  cases hacts : s.acts h with
  | nil => exact ⟨_, threadStep_done hacts⟩
  | cons a rest => rw [threadStep_act hacts]; exact hostAct_answers_any h a rest s

theorem hostStep_answers (h : HostThread) (s : State) : ∃ t, hostStep h s = .next t := by
  obtain ⟨w, -, -, e⟩ | ⟨-, -, e⟩ | ⟨-, e⟩ := hostStep_cases h s <;> rw [e]
  · exact presentWord_answers w s
  · exact ⟨s, rfl⟩
  · exact threadStep_answers h s

/-- A turn answers a next state, but for a TICK of a running cycle out of range (log entry 8). -/
theorem takeTurn_answers (turn : Turn) (s : State) :
    (∃ t, takeTurn turn s = .next t) ∨
    (turn = .tick ∧ s.tlRun ≠ 0#1 ∧ s.tickInRange = false ∧ takeTurn turn s = .fault .trafficOutOfRange) := by
  cases turn with
  | host => exact .inl (hostStep_answers .caller s)
  | task => exact .inl (hostStep_answers .task s)
  | serial | reset => exact .inl ⟨_, rfl⟩
  | tick =>
    obtain ⟨-, e⟩ | ⟨-, -, e⟩ | ⟨hrun, hrange, e⟩ := tick_cases s
    · exact .inl ⟨_, e⟩
    · exact .inl ⟨_, e⟩
    · exact .inr ⟨rfl, hrun, hrange, e⟩

theorem step_answers (s : State) :
    (∃ t, step s = .next t) ∨
    ((∃ rest, s.turns = .tick :: rest) ∧ s.tlRun ≠ 0#1 ∧ s.tickInRange = false ∧ step s = .fault .trafficOutOfRange) := by
  cases hturns : s.turns with
  | nil => exact .inl ⟨s, step_unscheduled hturns⟩
  | cons turn rest =>
    rw [step_turn hturns]
    obtain h | ⟨rfl, hrun, hrange, e⟩ := takeTurn_answers turn { s with turns := rest, stepNo := s.stepNo + 1 }
    · exact .inl h
    · exact .inr ⟨⟨rest, rfl⟩, hrun, hrange, e⟩

theorem tickInRange_eq_false_iff (s : State) : s.tickInRange = false ↔
    s.tlCnt = 0#9 ∨ s.tlG.toNat < s.params.consts.tlGreenMin.toNat ∨
      (s.tlPhase = .greenBlink ∧ s.params.consts.lastBlinkSlot.toNat < s.tlBlink.toNat) := by
  have hcnt : s.tlCnt.toNat < 1 ↔ s.tlCnt = 0#9 := by
    rw [Nat.lt_one_iff, ← BitVec.toNat_inj]; rfl
  simp only [State.tickInRange, Bool.and_eq_false_iff, Bool.or_eq_false_iff, decide_eq_false_iff_not, Nat.not_le, hcnt,
    ne_eq, not_not, or_assoc]

end Sys2Proof.Machine
end

section
/-! PROOFS. The statements on what the steps of each agent leave alone, on the committed output, and on which steps answer
(10_state.md R41, 20_memory.md R78 to R83, 60_exceptions.md section 1). -/

namespace Sys2Proof.Proofs

open Sys2Proof.Machine

/-- Settles O45: only a bus step writes the wire trace, and it moves events from Q to the trace; only an accepted command
appends to Q, and it finds Q empty. -/
theorem committedOutputGrowsByWholeCommands : Obligations.CommittedOutputGrowsByWholeCommands := by
  intro s t turn rest hturns hreset e hclean
  have h := takeTurn_committed hreset ((step_turn hturns).symm.trans e) hclean
  exact h

/-- Settles O8: a command is held or it is accepted and performed. -/
theorem everyCommandAnswersNextState : Obligations.EveryCommandAnswersNextState := exec_answers

/-- Settles O9: of the agents' turns only the TICK can fault, and its range check says when. -/
theorem stepFaultsOnlyAtOutOfRangeTick : Obligations.StepFaultsOnlyAtOutOfRangeTick := by
  intro s
  obtain ⟨t, e⟩ | ⟨hturn, hrun, hrange, e⟩ := step_answers s
  · rw [e]; exact ⟨nofun, nofun, rfl, rfl⟩
  · rw [e]
    refine ⟨nofun, ?_, rfl, rfl⟩
    rintro _ ⟨⟩
    exact ⟨rfl, hturn, (BitVec.eq_zero_or_eq_one _).resolve_left hrun, (tickInRange_eq_false_iff s).1 hrange⟩

/-- Settles O15: a host's turn presents a word, whose command writes no pin, or leaves the block as it is, and a TICK is a
move of the FSM. -/
theorem onlyBusStepsWritePins : Obligations.OnlyBusStepsWritePins := by
  intro s t turn rest hturns hserial hreset e
  have h := takeTurn_wire hserial hreset ((step_turn hturns).symm.trans e)
  exact ⟨congrArg (·.1.clk) h, congrArg (·.1.dio) h, congrArg (·.1.dir) h, congrArg Prod.snd h⟩

/-- Settles O16: a command is held, or its effect has the frame of its class; bus step and TICK have theirs. -/
theorem serialAndTrafficAreDisjoint : Obligations.SerialAndTrafficAreDisjoint := by
  refine ⟨fun i s t hi e => ?_, busStep_frame, fun i s t hi e => ?_, fun s t e => (tick_move e).frame⟩
  · obtain ⟨-, rfl⟩ | ⟨-, rfl⟩ := exec_cases e
    · simp
    · rw [commandEffect_frame_of_serial hi]; simp
  · have h : t.engine = s.engine := by
      obtain ⟨-, rfl⟩ | ⟨-, rfl⟩ := exec_cases e
      · rfl
      · exact commandEffect_engine_of_immediate hi s.accept
    exact ⟨congrArg (·.pins.clk) h, congrArg (·.pins.dio) h, congrArg (·.pins.dir) h, congrArg Engine.q h,
      congrArg Engine.bright h, congrArg Engine.segBuf h, congrArg Engine.wireTrace h⟩

end Sys2Proof.Proofs
end

section
/-! SUPPORT. Commands that repeat without effect (20_memory.md R76), and what a thread's act does whether or not a word is held
beside it (10_state.md R32, R34). -/

namespace Sys2Proof.Machine

/-! ### Commands that repeat without effect -/

theorem accept_of_free {s : State} (h : s.port = none) : s.accept = s := by
  cases s; cases h; rfl

theorem encodeEffect_idem (char : Byte) (point : Bit) (s : State) :
    encodeEffect char point (encodeEffect char point s) = encodeEffect char point s := by
  cases h : encodePattern s.params char point with
  | none => rw [encodeEffect_invalid h, encodeEffect_invalid (by exact h)]
  | some b => rw [encodeEffect_valid h, encodeEffect_valid (by exact h)]

theorem segLoadEffect_idem (idx : BitVec 3) (byte : Byte) (s : State) :
    segLoadEffect idx byte (segLoadEffect idx byte s) = segLoadEffect idx byte s := by
  cases h : idxInRange s.params.consts idx with
  | false => rw [segLoadEffect_outOfRange h, segLoadEffect_outOfRange (by exact h)]
  | true => simp [segLoadEffect, h, State.succeed]

theorem segLoadCharEffect_idem (idx : BitVec 3) (char : Byte) (point : Bit) (s : State) :
    segLoadCharEffect idx char point (segLoadCharEffect idx char point s) = segLoadCharEffect idx char point s := by
  cases h : idxInRange s.params.consts idx with
  | false => rw [segLoadCharEffect_outOfRange h, segLoadCharEffect_outOfRange (by exact h)]
  | true =>
    cases hb : encodePattern s.params char point with
    | none => rw [segLoadCharEffect_invalid h hb, segLoadCharEffect_invalid (by exact h) (by exact hb)]
    | some b => simp [segLoadCharEffect, h, hb, State.succeed]

theorem tlConfigEffect_idem (sel : BitVec 2) (value : Byte) (s : State) :
    tlConfigEffect sel value (tlConfigEffect sel value s) = tlConfigEffect sel value s := by
  have hsel : ∀ sel : BitVec 2, sel = 0#2 ∨ sel = 1#2 ∨ sel = 2#2 ∨ sel = 3#2 := by decide
  obtain rfl | rfl | rfl | rfl := hsel sel <;> rfl

/-- A command that is performed again with the same result, and that adds nothing to Q. -/
structure Repeatable (i : Instr) : Prop where
  effect : ∀ s, commandEffect i (commandEffect i s) = commandEffect i s
  events : ∀ s, busEvents s i = []

/-- A repeatable command is accepted again in the state that it left, and leaves it (20_memory.md R76). -/
theorem Repeatable.exec_again {i : Instr} (hi : Repeatable i) {s t : State} (hacc : acceptedNow i s = true)
    (e : exec i s = .next t) : exec i t = .next t := by
  have ht : commandEffect i s.accept = t := Host.Outcome.next.inj ((exec_accepted hacc).symm.trans e)
  have hport : t.port = none := ht ▸ commandEffect_port i s.accept
  have hq : t.q = s.q := (exec_q e).elim id fun ⟨hidle, hq⟩ => hq.trans ((hi.events s).trans hidle.symm)
  have hacc' : acceptedNow i t = true := by rw [acceptedNow, State.busy, hq]; exact hacc
  rw [exec_accepted hacc', accept_of_free hport, ← ht, hi.effect]

/-! ### Reads and held words -/

theorem actWaits_eq {s : State} {h : HostThread} {a : HostAct} {acts : List HostAct} (hacts : s.acts h = a :: acts) :
    s.actWaits h = a.waitsForPort (decide (s.portThread = h)) := by
  simp [State.actWaits, hacts]

/-- Of the reads only the check of a result can wait, and only beside a word of its own thread. -/
theorem waitsForPort_of_reads {a : HostAct} (ha : a.readsStatus = true) (own : Bool) :
    a.waitsForPort own = (a.checksResult && own) := by
  cases a with
  | readStatus | waitIdle | waitStopped | abandonOnError => rfl
  | issue | pause | clear | spawn | join | clockShow => cases ha

/-- The state in which an agent moves: its turn is off the schedule and counted (log entry 1). -/
abbrev State.scheduled (s : State) (rest : List Turn) : State := { s with turns := rest, stepNo := s.stepNo + 1 }

theorem State.scheduled_acts (s : State) (rest : List Turn) (h : HostThread) : (s.scheduled rest).acts h = s.acts h := by
  cases h <;> rfl

theorem State.scheduled_actWaits (s : State) (rest : List Turn) (h : HostThread) :
    (s.scheduled rest).actWaits h = s.actWaits h := by
  rw [State.actWaits, State.scheduled_acts]; rfl

section
variable {h : HostThread} {s : State} {rest : List Turn} (hturns : s.turns = h.turn :: rest)
include hturns

theorem step_thread : step s = hostStep h (s.scheduled rest) := by rw [step_turn hturns, takeTurn_turn]

/-- In a thread's step its next act is taken, unless a word is held and the act waits for it. -/
theorem step_act {a : HostAct} {acts : List HostAct} (hacts : s.acts h = a :: acts)
    (hport : s.port = none ∨ ∃ w, s.port = some w ∧ s.holds w = true ∧ s.actWaits h = false) :
    step s = hostAct h a acts (s.scheduled rest) := by
  rw [← s.scheduled_actWaits rest] at hport
  rw [step_thread hturns, hostStep_free (s := s.scheduled rest) hport, threadStep_act ((s.scheduled_acts rest h).trans hacts)]

/-- Beside a held word an act that waits for it stays the thread's next. -/
theorem step_waits {w : Word} (hport : s.port = some w) (hheld : s.holds w = true) (ha : s.actWaits h = true) :
    step s = .next (s.scheduled rest) := by
  rw [step_thread hturns]
  exact hostStep_waits (s := s.scheduled rest) hport hheld ((s.scheduled_actWaits rest h).trans ha)

/-- Beside a held word a thread changes the host's own record and nothing else (10_state.md R32, R34). -/
theorem step_beside_held {w : Word} (hport : s.port = some w) (hheld : s.holds w = true) :
    ∃ t, step s = .next t ∧ t = { s.scheduled rest with
      hostProg := t.hostProg, hostTask := t.hostTask, hostErrors := t.hostErrors, hostReads := t.hostReads } := by
  cases ha : s.actWaits h
  · have ha' := (s.scheduled_actWaits rest h).trans ha
    rw [step_thread hturns, hostStep_free (s := s.scheduled rest) (.inr ⟨w, hport, hheld, ha'⟩)]
    exact threadStep_frame ha'
  · exact ⟨_, step_waits hturns hport hheld ha, rfl⟩

end

end Sys2Proof.Machine
end

section
/-! PROOFS. The statements on the repetition of commands, on words on the command port, and on STATUS and its reads
(20_memory.md R76, 10_state.md R32 to R34). -/

namespace Sys2Proof.Proofs

open Sys2Proof.Machine

/-- Settles O33: each of the commands has the same effect again, and none of them adds to Q. -/
theorem repeatedCommandsAreIdempotent : Obligations.RepeatedCommandsAreIdempotent := by
  intro i s t hacc e hi
  refine Repeatable.exec_again ?_ hacc e
  obtain ⟨c, p, rfl⟩ | ⟨k, b, rfl⟩ | ⟨k, c, p, rfl⟩ | ⟨l, rfl⟩ | ⟨k, v, rfl⟩ | ⟨en, rfl⟩ | rfl := hi
  · exact ⟨encodeEffect_idem c p, fun _ => rfl⟩
  · exact ⟨segLoadEffect_idem k b, fun _ => rfl⟩
  · exact ⟨segLoadCharEffect_idem k c p, fun _ => rfl⟩
  · exact ⟨fun _ => rfl, fun _ => rfl⟩
  · exact ⟨tlConfigEffect_idem k v, fun _ => rfl⟩
  · exact ⟨fun _ => rfl, fun _ => rfl⟩
  · exact ⟨fun _ => rfl, fun _ => rfl⟩

/-- Settles O7: a step is the turn of its agent, a host's turn goes by the port and by the thread's next act, and a word that
decodes is presented as the issue of its command. -/
theorem stepRunsDecodedCommand : Obligations.StepRunsDecodedCommand := by
  refine ⟨fun s w => ⟨?accepted, ?again, ?held, ?waits, ?caller, ?task, ?fetch⟩, fun w i s hw => presentWord_ok hw s⟩
  case accepted =>
    intro h rest hturns hport hfree
    exact (step_thread hturns).trans (hostStep_accepts (s := s.scheduled rest) hport hfree h)
  case again =>
    intro hport hheld
    rw [presentWord_held hheld, ← hport]
  case held => exact fun h rest hturns hport hheld => step_beside_held hturns hport hheld
  case waits => exact fun h rest w' acts hturns hport hheld hacts => step_waits hturns hport hheld (actWaits_issue hacts)
  case caller => exact fun rest acts hturns hport hacts => step_act (h := .caller) hturns hacts (.inl hport)
  case task =>
    intro rest acts cancelled hturns hport htask
    have hacts : s.acts .task = .issue w :: acts := by rw [State.acts, htask]; rfl
    rw [step_act (h := .task) hturns hacts (.inl hport), hostAct, State.setActs, htask]; rfl
  case fetch =>
    rintro nbits n rfl
    exact step_act (h := .caller) (s := s.withFetchWord nbits n) rfl rfl (.inl rfl)

/-- Settles O10: STATUS is its fields side by side; a read is an act that issues no word, and of the reads only the check of the
held command's own result waits. -/
theorem statusLayout : Obligations.StatusLayout := by
  refine ⟨fun s => ?layout, ⟨rfl, rfl, rfl, rfl⟩, ⟨rfl, rfl, rfl, rfl, rfl, rfl⟩, fun h a acts s ha => ⟨?frame, ?taken⟩,
    fun h n position acts rest w s hturns hacts hport hheld hthread => ?check, fun _ _ _ => rfl⟩
  case layout =>
    have hbusy : s.busy = decide (s.q ≠ []) := by cases hq : s.q <;> simp [State.busy, hq]
    rw [← hbusy]
    simp (disch := decide) only [State.status, BitVec.extractLsb'_append_eq_of_add_le, BitVec.extractLsb'_append_eq_of_le]
    simp only [Nat.reduceAdd, Nat.reduceSub, BitVec.extractLsb'_eq_self, and_self]
  case frame =>
    have hno : ∀ w, a ≠ .issue w := by rintro w rfl; cases ha
    obtain ⟨t, ht⟩ := hostAct_answers h acts s hno
    have hframe := hostAct_frame hno ht
    exact ⟨t, ht, by rw [hframe]; rfl, hframe⟩
  case taken =>
    intro rest hturns hacts hport
    refine step_act hturns hacts (hport.imp_right fun ⟨w, hw, hheld, hown⟩ => ⟨w, hw, hheld, ?_⟩)
    rw [actWaits_eq hacts, waitsForPort_of_reads ha]
    cases hcheck : a.checksResult
    · rfl
    · exact decide_eq_false (hown hcheck)
  case check => exact step_waits hturns hport hheld (actWaits_ownCheck hacts hthread)

end Sys2Proof.Proofs
end

section
/-! SUPPORT. The invariant of a run of the MBPE (10_state.md R43, R51, 43_traffic_light.md R216 to R223): every action of the
traffic FSM leads to it, and no command and no agent breaks it. -/

namespace Sys2Proof.Machine

/-! ### The traffic FSM -/

theorem trafficInv_iff (s : State) : s.trafficInv = true ↔ s.tlBlink.toNat ≤ 5 ∧
    (s.tlRun = 0#1 ∨
      1 ≤ s.tlCnt.toNat ∧ 5 ≤ s.tlG.toNat ∧ s.countWithinPhase = true ∧ s.phaseLampRight = true) := by
  simp only [State.trafficInv, Bool.and_eq_true, Bool.or_eq_true, decide_eq_true_eq, and_assoc]

theorem trafficInv_of_stopped {s : State} (hslot : s.tlBlink.toNat ≤ 5) (hrun : s.tlRun = 0#1) : s.trafficInv = true :=
  (trafficInv_iff s).2 ⟨hslot, .inl hrun⟩

/-- What an action of the FSM of the MBPE may take for granted: its blink slot and its green duration are in range
(10_state.md R51, 43_traffic_light.md R217). -/
structure State.Ready (s : State) : Prop where
  mbpe : s.IsMbpe
  slot : s.tlBlink.toNat ≤ 5
  green : 5 ≤ s.tlG.toNat

variable {s : State}

theorem State.Ready.written (hs : s.Ready) (l : Lamp) (b : Bit) : (s.takeAnswer.setLamp l b).Ready := by
  obtain ⟨hmbpe, hslot, hgreen⟩ := hs
  cases l <;> exact ⟨hmbpe, hslot, hgreen⟩

theorem ticks_toNat (d : Byte) : (BitVec.ofNat 9 (2 * d.toNat)).toNat = 2 * d.toNat := by
  rw [BitVec.toNat_ofNat]; omega

/-- A lamp write that fails stops the cycle, so the invariant is a matter of the actions after one that succeeds. -/
theorem lampWrite_trafficInv (hs : s.Ready) {l : Lamp} {b : Bit} {rest : State → State}
    (hrest : (rest (s.takeAnswer.setLamp l b)).trafficInv = true) : (lampWrite l b rest s).trafficInv = true := by
  refine lampWrite_induct (P := fun t => t.trafficInv = true) s l b rest ?_ hrest
  refine trafficInv_of_stopped ?_ (by rw [lampFailure_eq])
  rw [lampFailure_eq]
  simpa using hs.slot

theorem greenEntered_trafficInv (hs : s.Ready) (hlamp : s.lampG = 1#1) :
    State.trafficInv { s.notify .green s.tlG with
      tlPhase := .green, tlCnt := s.params.consts.ticksOf (s.params.consts.steadyGreen s.tlG) } = true := by
  have hcnt : (BitVec.ofNat 9 (2 * (s.tlG.toNat - 3))).toNat = 2 * (s.tlG.toNat - 3) := by
    rw [BitVec.toNat_ofNat]; omega
  have hgreen := hs.green
  rw [hs.mbpe, mbpe_ticksOf_steadyGreen hgreen, trafficInv_iff]
  refine ⟨by simpa using hs.slot, .inr ⟨?_, by simpa using hgreen, ?_, ?_⟩⟩
  · show 1 ≤ (BitVec.ofNat 9 (2 * (s.tlG.toNat - 3))).toNat
    omega
  · simp [State.countWithinPhase, hcnt]
  · simp [State.phaseLampRight, hlamp]

theorem enterGreen_trafficInv (hs : s.Ready) : (enterGreen s).trafficInv = true :=
  lampWrite_trafficInv hs (greenEntered_trafficInv (hs.written ..) rfl)

theorem leaveRed_trafficInv (hs : s.Ready) : (leaveRed s).trafficInv = true :=
  lampWrite_trafficInv hs (enterGreen_trafficInv (hs.written ..))

/-- A wait of `d` seconds that is not 0, with the phase's lamp lit, meets the invariant. -/
theorem waiting_trafficInv (hs : s.Ready) {d : Byte} (hd : d ≠ 0#8) (hcnt : s.tlCnt = BitVec.ofNat 9 (2 * d.toNat))
    (hphase : s.tlPhase = .red ∧ s.tlR = d ∧ s.lampR = 1#1 ∨ s.tlPhase = .amber ∧ s.tlA = d ∧ s.lampA = 1#1) :
    s.trafficInv = true := by
  have hnat : s.tlCnt.toNat = 2 * d.toNat := by rw [hcnt, ticks_toNat]
  have hpos : d.toNat ≠ 0 := fun h => hd (BitVec.eq_of_toNat_eq h)
  refine (trafficInv_iff s).2 ⟨hs.slot, .inr ⟨by omega, hs.green, ?_⟩⟩
  obtain ⟨hp, rfl, hlamp⟩ | ⟨hp, rfl, hlamp⟩ := hphase <;>
    simp [State.countWithinPhase, State.phaseLampRight, hp, hnat, hlamp]

theorem redEntered_trafficInv (hs : s.Ready) (hlamp : s.lampR = 1#1) : (redEntered s).trafficInv = true := by
  rw [redEntered_eq hs.mbpe]
  dsimp only
  split
  · exact leaveRed_trafficInv ⟨hs.mbpe, hs.slot, hs.green⟩
  · next hr => exact waiting_trafficInv ⟨hs.mbpe, hs.slot, hs.green⟩ hr rfl (.inl ⟨rfl, rfl, hlamp⟩)

theorem enterRed_trafficInv (hs : s.Ready) : (enterRed s).trafficInv = true :=
  lampWrite_trafficInv hs (redEntered_trafficInv (hs.written ..) rfl)

theorem leaveAmber_trafficInv (hs : s.Ready) : (leaveAmber s).trafficInv = true :=
  lampWrite_trafficInv hs (enterRed_trafficInv (hs.written ..))

theorem amberEntered_trafficInv (hs : s.Ready) (hlamp : s.lampA = 1#1) : (amberEntered s).trafficInv = true := by
  rw [amberEntered_eq hs.mbpe]
  dsimp only
  split
  · exact leaveAmber_trafficInv ⟨hs.mbpe, hs.slot, hs.green⟩
  · next ha => exact waiting_trafficInv ⟨hs.mbpe, hs.slot, hs.green⟩ ha rfl (.inr ⟨rfl, rfl, hlamp⟩)

theorem enterAmber_trafficInv (hs : s.Ready) : (enterAmber s).trafficInv = true :=
  lampWrite_trafficInv hs (amberEntered_trafficInv (hs.written ..) rfl)

/-- A blink slot of one TICK meets the invariant, with green dark in slots 2 and 4 (43_traffic_light.md R223). -/
theorem blinking_trafficInv (hs : s.Ready) (hphase : s.tlPhase = .greenBlink) (hcnt : s.tlCnt = 1#9)
    (hlamp : s.lampG = if s.tlBlink = 2#3 ∨ s.tlBlink = 4#3 then 0#1 else 1#1) : s.trafficInv = true := by
  refine (trafficInv_iff s).2 ⟨hs.slot, .inr ⟨by rw [hcnt]; decide, hs.green, ?_, ?_⟩⟩
  · simp [State.countWithinPhase, hphase, hcnt]
  · simpa only [State.phaseLampRight, hphase, beq_iff_eq] using hlamp

/-- The level that the end of a slot leaves is that of the slot after it. -/
theorem blinkLevel_next : ∀ k : BitVec 3, k.toNat ≤ 5 → k ≠ 5#3 →
    (k + 1#3).toNat ≤ 5 ∧ blinkLevel k = if k + 1#3 = 2#3 ∨ k + 1#3 = 4#3 then 0#1 else 1#1 := by decide

theorem leaveGreen_trafficInv (hs : s.Ready) (hlamp : s.lampG = 1#1) : (leaveGreen s).trafficInv = true :=
  blinking_trafficInv (s := leaveGreen s) ⟨hs.mbpe, Nat.zero_le 5, hs.green⟩ rfl (by rw [leaveGreen, hs.mbpe]; rfl) hlamp

theorem nextBlinkSlot_trafficInv (hs : s.Ready) (hphase : s.tlPhase = .greenBlink) (hlamp : s.lampG = blinkLevel s.tlBlink) :
    (nextBlinkSlot s).trafficInv = true := by
  rw [nextBlinkSlot, hs.mbpe, mbpe_lastBlinkSlot, mbpe_slotTicks]
  split
  · exact enterAmber_trafficInv hs
  · next hlast =>
    obtain ⟨hslot, hlevel⟩ := blinkLevel_next s.tlBlink hs.slot hlast
    exact blinking_trafficInv ⟨hs.mbpe, hslot, hs.green⟩ hphase rfl (hlamp.trans hlevel)

theorem blinkSlotEnd_trafficInv (hs : s.Ready) (hphase : s.tlPhase = .greenBlink) : (blinkSlotEnd s).trafficInv = true :=
  lampWrite_trafficInv hs (nextBlinkSlot_trafficInv (hs.written ..) hphase rfl)

theorem waitEnd_trafficInv (hs : s.Ready) (hlamp : s.tlPhase = .green → s.lampG = 1#1) : (waitEnd s).trafficInv = true := by
  unfold waitEnd
  split
  · exact leaveRed_trafficInv hs
  · next hphase => exact leaveGreen_trafficInv hs (hlamp hphase)
  · next hphase => exact blinkSlotEnd_trafficInv hs hphase
  · exact leaveAmber_trafficInv hs

/-- What the invariant says of a running cycle. -/
theorem running_of_trafficInv (hinv : s.trafficInv = true) (hrun : s.tlRun ≠ 0#1) :
    1 ≤ s.tlCnt.toNat ∧ 5 ≤ s.tlG.toNat ∧ s.countWithinPhase = true ∧ s.phaseLampRight = true :=
  ((trafficInv_iff s).1 hinv).2.resolve_left hrun

theorem countWithinPhase_mono {cnt : BitVec 9} (hcnt : cnt.toNat ≤ s.tlCnt.toNat) (h : s.countWithinPhase = true) :
    State.countWithinPhase { s with tlCnt := cnt } = true := by
  unfold State.countWithinPhase at h ⊢
  cases hphase : s.tlPhase <;> simp only [hphase, decide_eq_true_eq] at h ⊢ <;> omega

theorem runningTick_trafficInv (hs : s.Ready) (hrun : s.tlRun ≠ 0#1) (hinv : s.trafficInv = true) :
    (runningTick s).trafficInv = true := by
  obtain ⟨hcnt, -, hwithin, hlamp⟩ := running_of_trafficInv hinv hrun
  by_cases hends : s.tlCnt - 1#9 = 0#9
  · rw [runningTick_ends hends]
    refine waitEnd_trafficInv ⟨hs.mbpe, hs.slot, hs.green⟩ fun hphase => ?_
    simpa [State.phaseLampRight, show s.tlPhase = .green from hphase] using hlamp
  · rw [runningTick_waiting hends]
    have hleft : (s.tlCnt - 1#9).toNat = s.tlCnt.toNat - 1 := by bv_omega
    have hpos : (s.tlCnt - 1#9).toNat ≠ 0 := fun h => hends (BitVec.eq_of_toNat_eq h)
    exact (trafficInv_iff _).2
      ⟨hs.slot, .inr ⟨Nat.one_le_iff_ne_zero.2 hpos, hs.green, countWithinPhase_mono (by omega) hwithin, hlamp⟩⟩

theorem tick_trafficInv {t : State} (hmbpe : s.IsMbpe) (hinv : s.trafficInv = true) (e : tick s = .next t) :
    t.trafficInv = true := by
  obtain ⟨-, h⟩ | ⟨hrun, -, h⟩ | ⟨-, -, h⟩ := tick_cases s
  · cases h.symm.trans e; exact hinv
  · cases h.symm.trans e
    exact runningTick_trafficInv ⟨hmbpe, ((trafficInv_iff s).1 hinv).1, (running_of_trafficInv hinv hrun).2.1⟩ hrun hinv
  · cases h.symm.trans e

/-! ### Commands and the host -/

theorem tlStartEffect_trafficInv (hmbpe : s.IsMbpe) (hinv : s.trafficInv = true) : (tlStartEffect s).trafficInv = true := by
  unfold tlStartEffect
  split
  · exact hinv
  · next hgreen =>
    rw [hmbpe] at hgreen
    exact enterRed_trafficInv ⟨hmbpe, Nat.zero_le 5, Nat.not_lt.1 hgreen⟩

theorem commandEffect_trafficInv (hmbpe : s.IsMbpe) (hinv : s.trafficInv = true) (i : Instr) :
    (commandEffect i s).trafficInv = true := by
  cases hi : isSerialInstr i
  · cases i with
    | encodeChar char point => rw [commandEffect, encodeEffect_frame]; exact hinv
    | tlConfig sel value => rw [commandEffect, tlConfigEffect_frame]; exact hinv
    | tlCbEnable en => exact hinv
    | tlStart => exact tlStartEffect_trafficInv hmbpe hinv
    | tlStop => exact trafficInv_of_stopped ((trafficInv_iff s).1 hinv).1 rfl
    | busStart | busStop | busWrite | segLoad | segLoadChar | setSegments | setBrightness => cases hi
  · rw [commandEffect_frame_of_serial hi]; exact hinv

theorem presentWord_trafficInv {w : Word} {t : State} (hmbpe : s.IsMbpe) (hinv : s.trafficInv = true)
    (e : presentWord w s = .next t) : t.trafficInv = true := by
  cases hw : decode w with
  | ok i =>
    obtain ⟨-, rfl⟩ | ⟨-, rfl⟩ := exec_cases ((presentWord_ok hw s).symm.trans e)
    · exact hinv
    · exact commandEffect_trafficInv (s := s.accept) hmbpe hinv i
  | error r => rw [illegalWord_frame ((presentWord_error hw s).symm.trans e)]; exact hinv

theorem hostStep_trafficInv {h : HostThread} {t : State} (hmbpe : s.IsMbpe) (hinv : s.trafficInv = true)
    (e : hostStep h s = .next t) : t.trafficInv = true := by
  obtain ⟨w, s', -, hw, hs⟩ | ht := hostStep_presents_or_frames e
  · refine presentWord_trafficInv ?_ ?_ hw <;> rw [hs]
    · exact hmbpe
    · exact hinv
  · rw [ht]; exact hinv

theorem takeTurn_trafficInv {turn : Turn} {t : State} (hmbpe : s.IsMbpe) (hinv : s.trafficInv = true)
    (e : takeTurn turn s = .next t) : t.trafficInv = true := by
  cases turn with
  | host | task => exact hostStep_trafficInv hmbpe hinv e
  | serial => cases e; rw [busStep_frame]; exact hinv
  | tick => exact tick_trafficInv hmbpe hinv e
  | reset => cases e; rfl

/-! ### Q -/

/-- No command puts more than a session of six patterns into Q (10_state.md R43). -/
theorem busEvents_length_le (h : s.params.ackSeq.length = 5) (i : Instr) : (busEvents s i).length ≤ 285 := by
  cases i with
  | busWrite byte => rw [busEvents, byteSeq_length, h]; decide
  | setSegments addr n =>
    rw [busEvents]
    split
    · have hpatterns : (s.patterns n).length ≤ 6 := by
        rw [State.patterns, List.length_take, Vector.length_toList]; omega
      rw [sessionSeq_length h]; omega
    · exact Nat.zero_le _
  | busStart | busStop => exact Nat.le_of_ble_eq_true rfl
  | encodeChar | segLoad | segLoadChar | setBrightness | tlConfig | tlStart | tlStop | tlCbEnable => exact Nat.zero_le _

theorem takeTurn_q_length_le {turn : Turn} {t : State} (hack : s.params.ackSeq.length = 5) (hq : s.q.length ≤ 285)
    (e : takeTurn turn s = .next t) : t.q.length ≤ 285 := by
  cases turn with
  | host | task =>
    obtain h | ⟨-, w, i, -, -, h⟩ := hostStep_q e
    · rw [h]; exact hq
    · rw [h]; exact busEvents_length_le hack i
  | serial => cases e; have := busStep_q_length_le s; omega
  | tick =>
    have hsame : t.q = s.q := congrArg Engine.q (tick_move e).engine_eq
    rw [hsame]; exact hq
  | reset => cases e; exact Nat.zero_le _

/-! ### The invariant -/

theorem inv_iff (s : State) : s.Inv ↔
    s.IsMbpe ∧ paramsWf s.params = true ∧ s.trafficInv = true ∧ s.params.ackSeq.length = 5 ∧ s.q.length ≤ 285 := by
  simp only [State.Inv, State.inv, State.queueInv, Bool.and_eq_true, decide_eq_true_eq, and_assoc]

theorem takeTurn_inv {turn : Turn} {t : State} (h : s.Inv) (e : takeTurn turn s = .next t) : t.Inv := by
  obtain ⟨hmbpe, hwf, htraffic, hack, hq⟩ := (inv_iff s).1 h
  have hparams := (takeTurn_grows e).params
  refine (inv_iff t).2 ⟨?_, ?_, takeTurn_trafficInv hmbpe htraffic e, ?_, takeTurn_q_length_le hack hq e⟩
  · rw [State.IsMbpe, hparams]; exact hmbpe
  · rw [hparams]; exact hwf
  · rw [hparams]; exact hack

/-- The invariant rules out the values that a TICK of a running cycle faults on. -/
theorem tickInRange_of_inv (h : s.Inv) (hrun : s.tlRun ≠ 0#1) : s.tickInRange = true := by
  obtain ⟨hmbpe, -, htraffic, -, -⟩ := (inv_iff s).1 h
  obtain ⟨hcnt, hgreen, -, -⟩ := running_of_trafficInv htraffic hrun
  have hslot := ((trafficInv_iff s).1 htraffic).1
  by_contra hrange
  obtain h0 | hg | ⟨-, hb⟩ := (tickInRange_eq_false_iff s).1 (Bool.eq_false_iff.2 hrange)
  · rw [h0] at hcnt; exact absurd hcnt (by decide)
  · rw [hmbpe] at hg; exact absurd hgreen (Nat.not_le.2 hg)
  · rw [hmbpe] at hb; exact absurd hslot (Nat.not_le.2 hb)

/-- A TICK of a running cycle with more than one TICK to wait takes one off the count (43_traffic_light.md R222). -/
theorem tick_counts (hrun : s.tlRun ≠ 0#1) (hrange : s.tickInRange = true) (hcnt : 1 < s.tlCnt.toNat) :
    tick s = .next { s with tlCnt := s.tlCnt - 1#9 } := by
  rw [tick_running hrun hrange, runningTick_waiting]
  bv_omega

end Sys2Proof.Machine
end

section
/-! PROOFS. The statements on the invariant of a run, and on a TICK within a wait (10_state.md R43 to R52, 43_traffic_light.md
R222). -/

namespace Sys2Proof.Proofs

open Sys2Proof.Machine

/-- Settles O54: at reset the cycle is stopped and Q is empty. -/
theorem resetMeetsInvariant : Obligations.ResetMeetsInvariant :=
  (inv_iff State.reset).2 ⟨rfl, rfl, rfl, rfl, Nat.zero_le _⟩

/-- Settles O55: each agent's turn keeps the FSM's part of the invariant and the bound on Q, and the parameters stay. -/
theorem stepKeepsInvariant : Obligations.StepKeepsInvariant := by
  intro s t h e
  cases hturns : s.turns with
  | nil => cases (step_unscheduled hturns).symm.trans e; exact h
  | cons turn rest =>
    refine takeTurn_inv ?_ ((step_turn hturns).symm.trans e)
    exact h

/-- Settles O56: only a TICK out of range stops, and the invariant keeps a running cycle within it. -/
theorem invariantStepsNeverStop : Obligations.InvariantStepsNeverStop := by
  intro s h
  obtain ht | ⟨-, hrun, hrange, -⟩ := step_answers s
  · exact ht
  · cases hrange.symm.trans (tickInRange_of_inv h hrun)

/-- Settles O47: the TICK is ignored while stopped, and in range it counts while more than one TICK is left. -/
theorem tickCountsDown : Obligations.TickCountsDown := by
  refine ⟨fun s rest hturns hrun => (step_turn hturns).trans (tick_stopped hrun), fun s rest hturns hrun hinv hcnt => ?_⟩
  have hgo : s.tlRun ≠ 0#1 := by rw [hrun]; decide
  refine ⟨_, (step_turn hturns).trans (tick_counts (s := s.scheduled rest) hgo (tickInRange_of_inv hinv hgo) hcnt), rfl, ?_⟩
  show (s.tlCnt - 1#9).toNat + 1 = s.tlCnt.toNat
  bv_omega

end Sys2Proof.Proofs
end

section
/-! SUPPORT. The actions of the traffic FSM neither read nor write the serial engine and the schedule, and while no pin write
fails they do not depend on how many answers are used up (20_memory.md R83). -/

namespace Sys2Proof.Machine

/-! ### Beside the FSM -/

/-- What stands beside the FSM: the serial engine and the schedule. -/
structure Side where
  engine : Engine
  turns : List Turn
  stepNo : Nat

/-- `s` with `v` beside its FSM, and with the next `n` answers used up. -/
def State.withSide (s : State) (v : Side) (n : Nat) : State := { s with
  clkOut := v.engine.pins.clk, dioOut := v.engine.pins.dio, dioDir := v.engine.pins.dir, q := v.engine.q,
  bright := v.engine.bright, segBuf := v.engine.segBuf, wireTrace := v.engine.wireTrace, turns := v.turns,
  stepNo := v.stepNo, pinFaults := s.pinFaults.drop n }

theorem withSide_answerOk {s : State} (h : s.pinsAnswerOk = true) (v : Side) (n : Nat) :
    (s.withSide v n).pinsAnswerOk = true := by
  rw [State.pinsAnswerOk, List.all_eq_true] at h ⊢
  exact fun b hb => h b (List.mem_of_mem_drop hb)

/-- While no pin write fails, the actions `f` do the same whatever stands beside the FSM, and no pin write fails after them. -/
def IgnoresSide (f : State → State) : Prop :=
  ∀ ⦃s⦄ v n, s.pinsAnswerOk = true → f (s.withSide v n) = (f s).withSide v n ∧ (f s).pinsAnswerOk = true

theorem IgnoresSide.id : IgnoresSide fun s => s := fun _ _ _ h => ⟨rfl, h⟩

theorem IgnoresSide.comp {f g : State → State} (hf : IgnoresSide f) (hg : IgnoresSide g) : IgnoresSide fun s => f (g s) :=
  fun s v n h => by
    obtain ⟨hgs, hok⟩ := hg v n h
    obtain ⟨hfs, hok'⟩ := hf v n hok
    exact ⟨(congrArg f hgs).trans hfs, hok'⟩

theorem IgnoresSide.ite {c : State → Prop} [DecidablePred c] {f g : State → State}
    (hc : ∀ s v n, c (s.withSide v n) ↔ c s) (hf : IgnoresSide f) (hg : IgnoresSide g) :
    IgnoresSide fun s => if c s then f s else g s := by
  intro s v n h
  by_cases hs : c s
  · simpa only [hc, if_pos hs] using hf v n h
  · simpa only [hc, if_neg hs] using hg v n h

/-- The announcement of a phase, with the phase and its count registered. -/
theorem announce_ignoresSide (p : Phase) {d : State → Byte} {cnt : State → BitVec 9} (hd : ∀ s v n, d (s.withSide v n) = d s)
    (hcnt : ∀ s v n, cnt (s.withSide v n) = cnt s) :
    IgnoresSide fun s => { s.notify p (d s) with tlPhase := p, tlCnt := cnt s } := by
  intro s v n h
  simp only [State.notify_eq_noticeIf, hd, hcnt]
  exact ⟨rfl, h⟩

theorem written_withSide (s : State) (v : Side) (n : Nat) (l : Lamp) (b : Bit) :
    (s.withSide v n).takeAnswer.setLamp l b = (s.takeAnswer.setLamp l b).withSide v n := by
  have hdrop : (s.pinFaults.drop n).tail = s.pinFaults.tail.drop n := by
    rw [List.tail_drop, List.drop_tail]
  cases l <;> simp only [State.withSide, State.takeAnswer, State.setLamp, hdrop]

theorem lampWrite_ignoresSide {rest : State → State} (hrest : IgnoresSide rest) (l : Lamp) (b : Bit) :
    IgnoresSide (lampWrite l b rest) := by
  intro s v n h
  have hok : (s.takeAnswer.setLamp l b).pinsAnswerOk = true := by
    have := takeAnswer_answerOk h
    cases l <;> exact this
  rw [lampWrite_ok (pinFault_of_answerOk h), lampWrite_ok (pinFault_of_answerOk (withSide_answerOk h v n)), written_withSide]
  exact hrest v n hok

theorem enterGreen_ignoresSide : IgnoresSide enterGreen :=
  lampWrite_ignoresSide (announce_ignoresSide .green (fun _ _ _ => rfl) fun _ _ _ => rfl) ..

theorem leaveRed_ignoresSide : IgnoresSide leaveRed := lampWrite_ignoresSide enterGreen_ignoresSide ..

theorem redEntered_ignoresSide : IgnoresSide redEntered :=
  (IgnoresSide.ite (c := fun s => s.tlCnt = 0#9) (fun _ _ _ => Iff.rfl) leaveRed_ignoresSide .id).comp
    (announce_ignoresSide .red (fun _ _ _ => rfl) fun _ _ _ => rfl)

theorem enterRed_ignoresSide : IgnoresSide enterRed := lampWrite_ignoresSide redEntered_ignoresSide ..

theorem leaveAmber_ignoresSide : IgnoresSide leaveAmber := lampWrite_ignoresSide enterRed_ignoresSide ..

theorem amberEntered_ignoresSide : IgnoresSide amberEntered :=
  (IgnoresSide.ite (c := fun s => s.tlCnt = 0#9) (fun _ _ _ => Iff.rfl) leaveAmber_ignoresSide .id).comp
    (announce_ignoresSide .amber (fun _ _ _ => rfl) fun _ _ _ => rfl)

theorem enterAmber_ignoresSide : IgnoresSide enterAmber := lampWrite_ignoresSide amberEntered_ignoresSide ..

theorem nextBlinkSlot_ignoresSide : IgnoresSide nextBlinkSlot :=
  .ite (fun _ _ _ => Iff.rfl) enterAmber_ignoresSide fun _ _ _ h => ⟨rfl, h⟩

theorem blinkSlotEnd_ignoresSide : IgnoresSide blinkSlotEnd :=
  fun s v n h => lampWrite_ignoresSide nextBlinkSlot_ignoresSide .green (blinkLevel s.tlBlink) v n h

theorem waitEnd_ignoresSide : IgnoresSide waitEnd := by
  intro s v n h
  have hphase : (s.withSide v n).tlPhase = s.tlPhase := rfl
  unfold waitEnd
  rw [hphase]
  cases s.tlPhase with
  | red => exact leaveRed_ignoresSide v n h
  | green => exact ⟨rfl, h⟩
  | greenBlink => exact blinkSlotEnd_ignoresSide v n h
  | amber => exact leaveAmber_ignoresSide v n h

theorem runningTick_ignoresSide : IgnoresSide runningTick :=
  (IgnoresSide.ite (c := fun s => s.tlCnt = 0#9) (fun _ _ _ => Iff.rfl) waitEnd_ignoresSide .id).comp
    (g := fun s => { s with tlCnt := s.tlCnt - 1#9 }) fun _ _ _ h => ⟨rfl, h⟩

/-! ### TICK and bus step -/

/-- A TICK answers the same whatever stands beside the FSM: it faults, or it leads to the same state but for the side. -/
theorem tick_withSide {s : State} (h : s.pinsAnswerOk = true) :
    (∃ t : State, t.engine = s.engine ∧ t.pinsAnswerOk = true ∧ ∀ v n, tick (s.withSide v n) = .next (t.withSide v n)) ∨
    (∀ v n, tick (s.withSide v n) = .fault .trafficOutOfRange) := by
  obtain ⟨hrun, e⟩ | ⟨hrun, hrange, e⟩ | ⟨hrun, hrange, e⟩ := tick_cases s
  · exact .inl ⟨s, rfl, h, fun v n => tick_stopped hrun⟩
  · refine .inl ⟨_, (tick_move e).engine_eq, (runningTick_ignoresSide ⟨s.engine, s.turns, s.stepNo⟩ 0 h).2, fun v n => ?_⟩
    rw [tick_running (s := s.withSide v n) hrun hrange, (runningTick_ignoresSide v n h).1]
  · refine .inr fun v n => ?_
    obtain ⟨hstop, -⟩ | ⟨-, hin, -⟩ | ⟨-, -, e⟩ := tick_cases (s.withSide v n)
    · exact absurd hstop hrun
    · cases (show s.tickInRange = true from hin).symm.trans hrange
    · exact e

/-- The serial engine after it has performed the head of Q (41_serial_bus.md R141). -/
def Engine.perform (g : Engine) : Engine :=
  match g.q with
  | [] => g
  | e :: rest => { g with
      pins := performEvent g.pins e, q := rest, wireTrace := g.wireTrace ++ [WireRecord.performed e] }

/-- While no pin write fails, a bus step performs the head of Q and uses up an answer for it. -/
theorem busStep_withSide {s : State} (h : s.pinsAnswerOk = true) :
    busStep s = s.withSide ⟨s.engine.perform, s.turns, s.stepNo⟩ (min 1 s.q.length) := by
  obtain ⟨hq, hs⟩ | ⟨e, rest, hq, ⟨hfail, -⟩ | ⟨-, hs⟩⟩ := busStep_cases s
  · have hperform : s.engine.perform = s.engine := by simp only [Engine.perform, State.engine, hq]
    rw [hs, hperform, hq]; rfl
  · cases hfail.symm.trans (pinFault_of_answerOk h)
  · have hperform : s.engine.perform = { s.engine with
        pins := performEvent s.pins e, q := rest, wireTrace := s.wireTrace ++ [.performed e] } := by
      simp only [Engine.perform, State.engine, hq]
    have hmin : min 1 s.q.length = 1 := by rw [hq, List.length_cons]; omega
    rw [hs, hperform, hmin, State.withSide, List.drop_one]; rfl

/-! ### Runs -/

theorem run_next {s t : State} (e : step s = .next t) (n : Nat) : core.run (n + 1) s = core.run n t := by
  simp only [Host.Core.run, show core.step s = .next t from e]

theorem run_fault {s : State} {f : Fault} (e : step s = .fault f) (n : Nat) : core.run (n + 1) s = .fault f := by
  simp only [Host.Core.run, show core.step s = .fault f from e]

theorem step_tick {s : State} {rest : List Turn} (h : s.turns = .tick :: rest) : step s = tick (s.scheduled rest) :=
  step_turn h

/-- The step of the serial engine, seen from beside the FSM. -/
theorem step_serial_withSide {s : State} (h : s.pinsAnswerOk = true) (rest : List Turn) (k : Nat) :
    step (s.withSide ⟨s.engine, .serial :: rest, k⟩ 0)
      = .next (s.withSide ⟨s.engine.perform, rest, k + 1⟩ (min 1 s.q.length)) := by
  have hok : ((s.withSide ⟨s.engine, .serial :: rest, k⟩ 0).scheduled rest).pinsAnswerOk = true := h
  exact (step_serial rfl).trans (congrArg _ (busStep_withSide hok))

theorem step_tick_withSide (s : State) (g : Engine) (rest : List Turn) (k n : Nat) :
    step (s.withSide ⟨g, .tick :: rest, k⟩ n) = tick (s.withSide ⟨g, rest, k + 1⟩ n) := step_tick rfl

end Sys2Proof.Machine
end

section
/-! PROOFS. The statement on a bus step and a TICK in either order (20_memory.md R83). -/

namespace Sys2Proof.Proofs

open Sys2Proof.Machine

/-- Settles O57: the bus step changes what stands beside the FSM, and the TICK, which leaves that alone, does the same beside
the one as beside the other. -/
theorem busStepAndTickCommute : Obligations.BusStepAndTickCommute := by
  intro s rest _ hok
  show core.run 2 (s.withSide ⟨s.engine, .serial :: .tick :: rest, s.stepNo⟩ 0)
    = core.run 2 (s.withSide ⟨s.engine, .tick :: .serial :: rest, s.stepNo⟩ 0)
  rw [run_next (step_serial_withSide hok ..)]
  obtain ⟨t, hengine, htok, ht⟩ | hfault := tick_withSide hok
  · have hq : t.q = s.q := congrArg Engine.q hengine
    have hlast := step_serial_withSide htok rest (s.stepNo + 1)
    rw [hengine, hq] at hlast
    rw [run_next ((step_tick_withSide ..).trans (ht ..)), run_next ((step_tick_withSide ..).trans (ht ..)), run_next hlast]
  · rw [run_fault ((step_tick_withSide ..).trans (hfault ..)), run_fault ((step_tick_withSide ..).trans (hfault ..))]

end Sys2Proof.Proofs
end

section
/-! SUPPORT. Several TICKs of a running cycle in a row, with no pin failure: a whole wait, the blink tail, and the round from
Green to Green (43_traffic_light.md R216 to R223, R227). -/

namespace Sys2Proof.Machine

/-! ### Several TICKs -/

/-- `n` TICKs in a row lead from `s` to `t`, whatever is scheduled after them and however many steps came before. -/
def TicksTo (n : Nat) (s t : State) : Prop :=
  ∀ rest k, core.run n { s with turns := List.replicate n .tick ++ rest, stepNo := k }
    = .next { t with turns := rest, stepNo := k + n }

theorem TicksTo.refl (s : State) : TicksTo 0 s s := fun _ _ => rfl

theorem run_append {n : Nat} {s t : State} (e : core.run n s = .next t) (m : Nat) : core.run (n + m) s = core.run m t := by
  induction n generalizing s with
  | zero => cases e; rw [Nat.zero_add]
  | succ n ih =>
    rw [Nat.succ_add]
    cases hs : step s with
    | next s' => rw [run_next hs] at e ⊢; exact ih e
    | fault f => rw [run_fault hs] at e; cases e
    | refused r => obtain ⟨t', h⟩ | ⟨-, -, -, h⟩ := step_answers s <;> cases hs.symm.trans h

theorem TicksTo.trans {n m : Nat} {s t u : State} (h : TicksTo n s t) (h' : TicksTo m t u) : TicksTo (n + m) s u := by
  intro rest k
  rw [List.replicate_add, List.append_assoc, run_append (h _ k) m, h' rest (k + n), Nat.add_assoc]

theorem tick_rescheduled {s t : State} (hok : s.pinsAnswerOk = true) (e : tick s = .next t) (turns : List Turn) (k : Nat) :
    tick { s with turns := turns, stepNo := k } = .next { t with turns := turns, stepNo := k } := by
  obtain ⟨t', -, -, ht'⟩ | hfault := tick_withSide hok
  · cases e.symm.trans (ht' ⟨s.engine, s.turns, s.stepNo⟩ 0)
    exact ht' ⟨s.engine, turns, k⟩ 0
  · cases e.symm.trans (hfault ⟨s.engine, s.turns, s.stepNo⟩ 0)

theorem ticksTo_one {s t : State} (hok : s.pinsAnswerOk = true) (e : tick s = .next t) : TicksTo 1 s t := by
  intro rest k
  have hstep : step { s with turns := .tick :: rest, stepNo := k } = .next { t with turns := rest, stepNo := k + 1 } :=
    (step_tick rfl).trans (tick_rescheduled hok e rest (k + 1))
  exact run_next hstep 0

/-! ### A whole wait -/

/-- A running cycle of the MBPE that no pin write fails, with its green duration in range. -/
structure State.Cycling (s : State) : Prop where
  mbpe : s.IsMbpe
  run : s.tlRun = 1#1
  green : 5 ≤ s.tlG.toNat
  ok : s.pinsAnswerOk = true
  slot : s.tlPhase = .greenBlink → s.tlBlink.toNat ≤ 5

variable {s : State}

theorem State.Cycling.inRange (hs : s.Cycling) (hcnt : 1 ≤ s.tlCnt.toNat) : s.tickInRange = true := by
  simp only [State.tickInRange, hs.mbpe, mbpe_lastBlinkSlot, Bool.and_eq_true, Bool.or_eq_true, decide_eq_true_eq]
  exact ⟨⟨hcnt, hs.green⟩, imp_iff_not_or.1 hs.slot⟩

theorem ticksTo_last (hs : s.Cycling) {n : Nat} (hcnt : s.tlCnt.toNat = n + 1) : TicksTo n s { s with tlCnt := 1#9 } := by
  induction n generalizing s with
  | zero =>
    have hone : s.tlCnt = 1#9 := BitVec.eq_of_toNat_eq hcnt
    rw [← hone]; exact .refl s
  | succ n ih =>
    have hfirst := tick_counts (by rw [hs.run]; decide) (hs.inRange (by omega)) (show 1 < s.tlCnt.toNat by omega)
    have hleft : (s.tlCnt - 1#9).toNat = n + 1 := by bv_omega
    rw [Nat.add_comm]
    have hnext : State.Cycling { s with tlCnt := s.tlCnt - 1#9 } := ⟨hs.mbpe, hs.run, hs.green, hs.ok, hs.slot⟩
    exact (ticksTo_one hs.ok hfirst).trans (ih hnext hleft)

/-- A wait of `n` TICKs ends as the TICK at a count of 1 does. -/
theorem ticksTo_of_wait (hs : s.Cycling) {n : Nat} {t : State} (hcnt : s.tlCnt.toNat = n) (hn : n ≠ 0)
    (e : tick { s with tlCnt := 1#9 } = .next t) : TicksTo n s t := by
  obtain ⟨m, rfl⟩ := Nat.exists_eq_succ_of_ne_zero hn
  exact (ticksTo_last hs hcnt).trans (ticksTo_one hs.ok e)

theorem dropped_answerOk (h : s.pinsAnswerOk = true) {t : State} {n : Nat} (ht : t.pinFaults = s.pinFaults.drop n) :
    t.pinsAnswerOk = true := by
  rw [State.pinsAnswerOk, ht]
  exact withSide_answerOk h ⟨s.engine, s.turns, s.stepNo⟩ n

/-! ### The blink tail -/

/-- Green just left, in the first slot of the blink tail (43_traffic_light.md R218). -/
def State.greenLeft (s : State) : State := { s with tlPhase := .greenBlink, tlBlink := 0#3, tlCnt := 1#9 }

theorem ticksTo_greenLeft (hs : s.Cycling) (hphase : s.tlPhase = .green)
    (hcnt : s.tlCnt = BitVec.ofNat 9 (2 * (s.tlG.toNat - 3))) : TicksTo (2 * (s.tlG.toNat - 3)) s s.greenLeft := by
  have hgreen := hs.green
  refine ticksTo_of_wait hs (by rw [hcnt, BitVec.toNat_ofNat]; omega) (by omega) ?_
  rw [tick_ends_green (s := { s with tlCnt := 1#9 }) hs.mbpe hs.run rfl hs.green hphase, leaveGreen, hs.mbpe, mbpe_slotTicks]
  rfl

/-- A blink slot before the last one ended (43_traffic_light.md R223). -/
def State.slotEnded (s : State) : State := { s with
  lampG := blinkLevel s.tlBlink, tlBlink := s.tlBlink + 1#3, tlCnt := 1#9, pinFaults := s.pinFaults.drop 1 }

theorem tick_slotEnded (hs : s.Cycling) (hphase : s.tlPhase = .greenBlink) (hcnt : s.tlCnt = 1#9)
    (hslot : s.tlBlink.toNat < 5) : tick s = .next s.slotEnded := by
  have hnotLast : s.tlBlink ≠ 5#3 := fun h => absurd (h ▸ hslot) (by decide)
  rw [tick_ends_greenBlink hs.mbpe hs.run hcnt hs.green hphase (by omega)]
  exact congrArg _ (blinkSlotEnd_next hs.mbpe hnotLast (answersOk_of_pinsAnswerOk hs.ok 1))

theorem ticksTo_slotEnded (hs : s.Cycling) (hphase : s.tlPhase = .greenBlink) (hcnt : s.tlCnt = 1#9) {n : Nat}
    (hn : s.tlBlink.toNat + n ≤ 5) : TicksTo n s (State.slotEnded^[n] s) := by
  induction n generalizing s with
  | zero => exact .refl s
  | succ n ih =>
    have hslot : s.slotEnded.tlBlink.toNat + n ≤ 5 := by
      show (s.tlBlink + 1#3).toNat + n ≤ 5
      bv_omega
    have hnext : s.slotEnded.Cycling :=
      ⟨hs.mbpe, hs.run, hs.green, dropped_answerOk hs.ok rfl, fun _ => by omega⟩
    have hfirst := ticksTo_one hs.ok (tick_slotEnded hs hphase hcnt (by omega))
    have hall := hfirst.trans (ih hnext hphase rfl hslot)
    rw [Nat.add_comm 1 n] at hall
    exact hall

/-- The blink tail in its last slot: five slots after Green the lamp is lit (43_traffic_light.md R223). -/
def State.tailEnding (s : State) : State := { s with
  tlPhase := .greenBlink, tlBlink := 5#3, tlCnt := 1#9, lampG := 1#1, pinFaults := s.pinFaults.drop 5 }

theorem ticksTo_tailEnding (hs : s.Cycling) (hphase : s.tlPhase = .green)
    (hcnt : s.tlCnt = BitVec.ofNat 9 (2 * (s.tlG.toNat - 3))) : TicksTo (2 * (s.tlG.toNat - 3) + 5) s s.tailEnding := by
  have hleft : s.greenLeft.Cycling := ⟨hs.mbpe, hs.run, hs.green, hs.ok, fun _ => Nat.zero_le 5⟩
  have hslots : State.slotEnded^[5] s.greenLeft = s.tailEnding := by
    simp only [Function.iterate_succ_apply, Function.iterate_zero_apply, State.slotEnded, State.greenLeft,
      State.tailEnding, List.drop_drop]
    rfl
  exact (ticksTo_greenLeft hs hphase hcnt).trans (hslots ▸ ticksTo_slotEnded hleft rfl rfl (Nat.le_refl 5))

/-! ### Amber and Red -/

/-- The blink tail and Amber ended, Red not yet entered (43_traffic_light.md R219). -/
def State.amberLeft (s : State) : State := { s with
  lampG := 0#1, lampA := 0#1, tlPhase := .amber, tlCnt := 0#9, phaseTrace := s.phaseTrace ++ noticeIf s.tlCbEn 3#2 s.tlA,
  pinFaults := s.pinFaults.drop 3 }

/-- Amber just entered from the last blink slot. -/
def State.inAmber (s : State) : State := { s with
  lampG := 0#1, lampA := 1#1, tlPhase := .amber, tlCnt := BitVec.ofNat 9 (2 * s.tlA.toNat),
  phaseTrace := s.phaseTrace ++ noticeIf s.tlCbEn 3#2 s.tlA, pinFaults := s.pinFaults.drop 2 }

theorem double_seconds_ne_zero {d : Byte} (h : d ≠ 0#8) : 2 * d.toNat ≠ 0 :=
  Nat.mul_ne_zero (by decide) fun h0 => h (BitVec.eq_of_toNat_eq h0)

/-- From the last blink slot the cycle comes to Red in the slot's own TICK and those of Amber, zero ones included. -/
theorem ticksTo_enterRed (hs : s.Cycling) (hphase : s.tlPhase = .greenBlink) (hcnt : s.tlCnt = 1#9) (hslot : s.tlBlink = 5#3) :
    TicksTo (1 + 2 * s.tlA.toNat) s (enterRed s.amberLeft) := by
  have hok := answersOk_of_pinsAnswerOk hs.ok
  have hlast : tick s = .next (blinkSlotEnd { s with tlCnt := 0#9 }) :=
    tick_ends_greenBlink hs.mbpe hs.run hcnt hs.green hphase (by rw [hslot]; decide)
  by_cases ha : s.tlA = 0#8
  · have hzero : 2 * s.tlA.toNat = 0 := by rw [ha]; rfl
    rw [hzero]
    refine ticksTo_one hs.ok (hlast.trans (congrArg _ ?_))
    rw [blinkSlotEnd_enterRed (s := { s with tlCnt := 0#9 }) hs.mbpe hslot ha (hok 3), State.amberLeft, ha]
  · have hamber : s.inAmber.Cycling := ⟨hs.mbpe, hs.run, hs.green, dropped_answerOk hs.ok rfl, fun h => nomatch h⟩
    have henter : tick s = .next s.inAmber :=
      hlast.trans (congrArg _ (blinkSlotEnd_amber (s := { s with tlCnt := 0#9 }) hs.mbpe hslot ha (hok 2)))
    refine (ticksTo_one hs.ok henter).trans (ticksTo_of_wait hamber (ticks_toNat _) (double_seconds_ne_zero ha) ?_)
    rw [tick_ends_amber (by exact hamber.mbpe) (by exact hamber.run) rfl (by exact hamber.green) rfl,
      leaveAmber_of_ok (answersOk_of_pinsAnswerOk (by exact hamber.ok) 1)]
    simp only [State.amberLeft, State.inAmber, List.drop_drop]

/-- Green just entered through Red (43_traffic_light.md R216, R217). -/
def State.redPassed (s : State) : State := { s with
  lampR := 0#1, lampG := 1#1, tlPhase := .green, tlCnt := BitVec.ofNat 9 (2 * (s.tlG.toNat - 3)),
  phaseTrace := s.phaseTrace ++ noticeIf s.tlCbEn 0#2 s.tlR ++ noticeIf s.tlCbEn 1#2 s.tlG, pinFaults := s.pinFaults.drop 3 }

/-- Red just entered, with a wait before it. -/
def State.inRed (s : State) : State := { s with
  lampR := 1#1, tlPhase := .red, tlCnt := BitVec.ofNat 9 (2 * s.tlR.toNat),
  phaseTrace := s.phaseTrace ++ noticeIf s.tlCbEn 0#2 s.tlR, pinFaults := s.pinFaults.drop 1 }

/-- From the entry of Red the cycle comes to Green in the TICKs of Red, zero ones included. -/
theorem ticksTo_redPassed (hs : s.Cycling) : TicksTo (2 * s.tlR.toNat) (enterRed s) s.redPassed := by
  have hok := answersOk_of_pinsAnswerOk hs.ok
  by_cases hr : s.tlR = 0#8
  · have hzero : 2 * s.tlR.toNat = 0 := by rw [hr]; rfl
    rw [hzero, enterRed_passes hs.mbpe hs.green hr (hok 3), State.redPassed, hr]
    exact .refl _
  · have hred : s.inRed.Cycling := ⟨hs.mbpe, hs.run, hs.green, dropped_answerOk hs.ok rfl, fun h => nomatch h⟩
    rw [enterRed_stays hs.mbpe hr (hok 1)]
    refine ticksTo_of_wait (s := s.inRed) hred (ticks_toNat _) (double_seconds_ne_zero hr) ?_
    rw [tick_ends_red (by exact hred.mbpe) (by exact hred.run) rfl (by exact hred.green) rfl,
      leaveRed_of_ok (by exact hred.mbpe) (by exact hred.green) (answersOk_of_pinsAnswerOk (by exact hred.ok) 2)]
    simp only [State.redPassed, State.inRed, List.drop_drop]

/-- The whole round from Green just entered to Green just entered again (43_traffic_light.md R227). -/
theorem ticksTo_round (hs : s.Cycling) (hphase : s.tlPhase = .green) (hcnt : s.tlCnt = BitVec.ofNat 9 (2 * (s.tlG.toNat - 3))) :
    TicksTo (2 * (s.tlR.toNat + s.tlG.toNat + s.tlA.toNat)) s s.tailEnding.amberLeft.redPassed := by
  have htail : s.tailEnding.Cycling := ⟨hs.mbpe, hs.run, hs.green, dropped_answerOk hs.ok rfl, fun _ => Nat.le_refl 5⟩
  have hamber : s.tailEnding.amberLeft.Cycling :=
    ⟨hs.mbpe, hs.run, hs.green, dropped_answerOk htail.ok rfl, fun h => nomatch h⟩
  have hround := ((ticksTo_tailEnding hs hphase hcnt).trans (ticksTo_enterRed htail rfl rfl rfl)).trans
    (ticksTo_redPassed hamber)
  have hticks : 2 * (s.tlG.toNat - 3) + 5 + (1 + 2 * s.tlA.toNat) + 2 * s.tlR.toNat
      = 2 * (s.tlR.toNat + s.tlG.toNat + s.tlA.toNat) := by
    have hgreen := hs.green
    omega
  exact hticks ▸ hround

/-! ### The lamps -/

/-- Red entered with amber and green dark leaves at most the phase's lamp lit, also where Red is passed through. -/
theorem enterRed_onlyPhaseLamp (hs : s.Cycling) (ha : s.lampA = 0#1) (hg : s.lampG = 0#1) :
    (enterRed s).onlyPhaseLamp = true ∧ (enterRed s).tlRun = 1#1 := by
  have hok := answersOk_of_pinsAnswerOk hs.ok
  by_cases hr : s.tlR = 0#8
  · rw [enterRed_passes hs.mbpe hs.green hr (hok 3)]
    exact ⟨by simp [State.onlyPhaseLamp, ha], hs.run⟩
  · rw [enterRed_stays hs.mbpe hr (hok 1)]
    exact ⟨by simp [State.onlyPhaseLamp, ha, hg], hs.run⟩

/-- The end of a wait keeps at most the phase's lamp lit (43_traffic_light.md R226). -/
theorem waitEnd_onlyPhaseLamp (hs : s.Cycling) (h : s.onlyPhaseLamp = true) :
    (waitEnd s).onlyPhaseLamp = true ∧ (waitEnd s).tlRun = 1#1 := by
  have hok := answersOk_of_pinsAnswerOk hs.ok
  cases hphase : s.tlPhase with
  | red =>
    have hlamps : s.lampA = 0#1 ∧ s.lampG = 0#1 := by simpa [State.onlyPhaseLamp, hphase] using h
    rw [waitEnd, hphase]
    dsimp only
    rw [leaveRed_of_ok hs.mbpe hs.green (hok 2)]
    exact ⟨by simp [State.onlyPhaseLamp, hlamps], hs.run⟩
  | green =>
    have hlamps : s.lampR = 0#1 ∧ s.lampA = 0#1 := by simpa [State.onlyPhaseLamp, hphase] using h
    rw [waitEnd, hphase]
    exact ⟨by simp [leaveGreen, State.onlyPhaseLamp, hlamps], hs.run⟩
  | greenBlink =>
    have hlamps : s.lampR = 0#1 ∧ s.lampA = 0#1 := by simpa [State.onlyPhaseLamp, hphase] using h
    rw [waitEnd, hphase]
    dsimp only
    by_cases hslot : s.tlBlink = 5#3
    · by_cases ha : s.tlA = 0#8
      · rw [blinkSlotEnd_enterRed hs.mbpe hslot ha (hok 3)]
        exact enterRed_onlyPhaseLamp ⟨hs.mbpe, hs.run, hs.green, dropped_answerOk hs.ok rfl, fun h => nomatch h⟩ rfl rfl
      · rw [blinkSlotEnd_amber hs.mbpe hslot ha (hok 2)]
        exact ⟨by simp [State.onlyPhaseLamp, hlamps], hs.run⟩
    · rw [blinkSlotEnd_next hs.mbpe hslot (hok 1)]
      exact ⟨by simp [State.onlyPhaseLamp, hphase, hlamps], hs.run⟩
  | amber =>
    have hlamps : s.lampR = 0#1 ∧ s.lampG = 0#1 := by simpa [State.onlyPhaseLamp, hphase] using h
    rw [waitEnd, hphase]
    dsimp only
    rw [leaveAmber_of_ok (hok 1)]
    exact enterRed_onlyPhaseLamp ⟨hs.mbpe, hs.run, hs.green, dropped_answerOk hs.ok rfl, hs.slot⟩ rfl hlamps.2

/-- The range check of a TICK gives what a running cycle of the MBPE needs. -/
theorem cycling_of_inRange (hmbpe : s.IsMbpe) (hrun : s.tlRun = 1#1) (hok : s.pinsAnswerOk = true)
    (hrange : s.tickInRange = true) : s.Cycling := by
  simp only [State.tickInRange, hmbpe, mbpe_lastBlinkSlot, Bool.and_eq_true, Bool.or_eq_true, decide_eq_true_eq] at hrange
  obtain ⟨⟨-, hgreen⟩, hslot⟩ := hrange
  exact ⟨hmbpe, hrun, hgreen, hok, imp_iff_not_or.2 hslot⟩

theorem runningTick_onlyPhaseLamp (hs : s.Cycling) (h : s.onlyPhaseLamp = true) :
    (runningTick s).onlyPhaseLamp = true ∧ (runningTick s).tlRun = 1#1 := by
  by_cases hends : s.tlCnt - 1#9 = 0#9
  · rw [runningTick_ends hends]
    exact waitEnd_onlyPhaseLamp (s := { s with tlCnt := 0#9 }) ⟨hs.mbpe, hs.run, hs.green, hs.ok, hs.slot⟩ h
  · rw [runningTick_waiting hends]
    exact ⟨h, hs.run⟩

end Sys2Proof.Machine
end

section
/-! PROOFS. The spec's inferences on the traffic cycle: its period and its lamps (43_traffic_light.md R226, R227). -/

namespace Sys2Proof.Proofs

open Sys2Proof.Machine

/-- Settles O53: the waits of Green, of the six blink slots, of Amber and of Red, one after the other, are the round, and a
wait of 0 seconds is passed through in the TICK that enters it. -/
theorem cycleRepeats : Obligations.CycleRepeats := by
  intro s rest _ hmbpe hrun hphase hgreen hcnt hok hturns
  have hs : s.Cycling := ⟨hmbpe, hrun, hgreen, hok, fun h => nomatch hphase.symm.trans h⟩
  have hround := ticksTo_round hs hphase hcnt rest s.stepNo
  rw [← hturns] at hround
  rw [hround]
  simp only [State.redPassed, State.amberLeft, State.tailEnding, List.drop_drop, hphase, hcnt]

/-- Settles O52: the entries of Red and Amber and the exits of all phases leave at most the phase's lamp lit. -/
theorem tickKeepsOnlyPhaseLampLit : Obligations.TickKeepsOnlyPhaseLampLit := by
  refine ⟨fun s hmbpe hok hgreen _ ha hg => ?_, fun s t hmbpe hrun hok hlamps e => ?_⟩
  · have hstarted : s.started.Cycling := ⟨hmbpe, rfl, hgreen, hok, fun _ => Nat.zero_le 5⟩
    exact ⟨_, tlStart_enters hmbpe hgreen, enterRed_onlyPhaseLamp hstarted ha hg⟩
  · obtain ⟨hstop, -⟩ | ⟨-, hrange, h⟩ | ⟨-, -, h⟩ := tick_cases s
    · cases hstop.symm.trans hrun
    · cases h.symm.trans e
      exact runningTick_onlyPhaseLamp (cycling_of_inRange hmbpe hrun hok hrange) hlamps
    · cases h.symm.trans e

end Sys2Proof.Proofs
end

section
/-! SUPPORT. What the event lists of the serial engine put on the line (41_serial_bus.md R143 to R148, R157, R160), and what the
bus steps of a whole list leave. -/

namespace Sys2Proof.Machine

/-! ### Lists of events, one after the other -/

theorem performEvents_append (p : Pins) (es fs : List PinEvent) :
    performEvents p (es ++ fs) = performEvents (performEvents p es) fs := List.foldl_append

theorem sampledBits_append (p : Pins) (es fs : List PinEvent) :
    sampledBits p (es ++ fs) = sampledBits p es ++ sampledBits (performEvents p es) fs := by
  induction es generalizing p with
  | nil => rfl
  | cons e es ih =>
    simp only [List.cons_append, sampledBits, ih]
    split <;> rfl

theorem clkRises_append (p : Pins) (es fs : List PinEvent) :
    clkRises p (es ++ fs) = clkRises p es + clkRises (performEvents p es) fs := by
  induction es generalizing p with
  | nil => exact (Nat.zero_add _).symm
  | cons e es ih => simp only [List.cons_append, clkRises, ih, Nat.add_assoc]; rfl

theorem highClockChanges_append (p : Pins) (es fs : List PinEvent) :
    highClockChanges p (es ++ fs) = highClockChanges p es ++ highClockChanges (performEvents p es) fs := by
  induction es generalizing p with
  | nil => rfl
  | cons e es ih =>
    simp only [List.cons_append, highClockChanges, ih]
    split <;> rfl

/-- A receiver reads the same of the level view (41_serial_bus.md R160): an event that changes nothing is no rise. -/
theorem sampledBits_levelChanges (p : Pins) (es : List PinEvent) :
    sampledBits p (levelChanges p es) = sampledBits p es := by
  induction es generalizing p with
  | nil => rfl
  | cons e es ih =>
    rw [levelChanges]
    split
    · next hsame =>
      have hrise : ¬ (p.clk = 0#1 ∧ p.clk = 1#1 ∧ p.dir = .output) := fun ⟨h0, h1, _⟩ => by
        rw [h0] at h1; exact absurd h1 (by decide)
      simp only [sampledBits, hsame, if_neg hrise, ih]
    · simp only [sampledBits, ih]

/-! ### The bits of a byte -/

/-- The three events of a data bit (41_serial_bus.md R145). -/
def bitEvents (v : Bit) : List PinEvent := [.clk 0#1, .dio v, .clk 1#1]

theorem byteSeq_eq_bits (p : Params) (b : Byte) : byteSeq p b = (bitsLsbFirst b).flatMap bitEvents ++ p.ackSeq :=
  byteSeq_eq p b

/-- From any levels of a driven line a data bit is one rise of CLK, with the bit on the line. -/
theorem bitEvents_line : ∀ c d v : Bit,
    performEvents ⟨c, d, .output⟩ (bitEvents v) = ⟨1#1, v, .output⟩ ∧
    sampledBits ⟨c, d, .output⟩ (bitEvents v) = [v] ∧ clkRises ⟨c, d, .output⟩ (bitEvents v) = 1 ∧
    highClockChanges ⟨c, d, .output⟩ (bitEvents v) = [] := by decide

/-- On a driven line data bits are as many rises, with the bits on the line, and DIO changes while CLK is low. -/
theorem bits_line (vs : List Bit) (c d : Bit) :
    sampledBits ⟨c, d, .output⟩ (vs.flatMap bitEvents) = vs ∧
    clkRises ⟨c, d, .output⟩ (vs.flatMap bitEvents) = vs.length ∧
    highClockChanges ⟨c, d, .output⟩ (vs.flatMap bitEvents) = [] := by
  induction vs generalizing c d with
  | nil => exact ⟨rfl, rfl, rfl⟩
  | cons v vs ih =>
    obtain ⟨hend, hsampled, hrises, hchanges⟩ := bitEvents_line c d v
    obtain ⟨hsampled', hrises', hchanges'⟩ := ih 1#1 v
    rw [List.flatMap_cons, sampledBits_append, clkRises_append, highClockChanges_append, hend, hsampled, hrises, hchanges,
      hsampled', hrises', hchanges', List.length_cons, Nat.add_comm]
    exact ⟨rfl, rfl, rfl⟩

/-! ### Start, stop and byte frame -/

/-- The default acknowledgement: one rise, with DIO not driven, and turns of DIO while CLK is low (41_serial_bus.md R146). -/
theorem ackSeq_line : ∀ d : Bit,
    performEvents ⟨1#1, d, .output⟩ defaultAckSeq = ⟨0#1, d, .output⟩ ∧
    sampledBits ⟨1#1, d, .output⟩ defaultAckSeq = [] ∧ clkRises ⟨1#1, d, .output⟩ defaultAckSeq = 1 ∧
    highClockChanges ⟨1#1, d, .output⟩ defaultAckSeq = [] := by decide

theorem startSeq_line : ∀ d : Bit,
    performEvents ⟨1#1, d, .output⟩ startSeq = ⟨0#1, 0#1, .output⟩ ∧ sampledBits ⟨1#1, d, .output⟩ startSeq = [] := by
  decide

theorem startSeq_changes : ∀ c d : Bit, c = 0#1 ∨ d = 1#1 →
    performEvents ⟨c, d, .output⟩ startSeq = ⟨0#1, 0#1, .output⟩ ∧
    (highClockChanges ⟨c, d, .output⟩ startSeq).map (fun x => x.2) = [.dio 0#1] := by decide

theorem stopSeq_line : ∀ c d : Bit,
    performEvents ⟨c, d, .output⟩ stopSeq = ⟨1#1, 1#1, .output⟩ ∧ sampledBits ⟨c, d, .output⟩ stopSeq = [0#1] ∧
    (highClockChanges ⟨c, d, .output⟩ stopSeq).map (fun x => x.2) = [.dio 1#1] := by decide

theorem turnaround_line : ∀ c d : Bit,
    performEvents ⟨c, d, .output⟩ turnaround = ⟨0#1, 0#1, .output⟩ ∧ sampledBits ⟨c, d, .output⟩ turnaround = [0#1] := by
  decide

section
variable {p : Params} (hack : p.ackSeq = defaultAckSeq)
include hack

/-- After a byte frame CLK is low and DIO is driven and holds bit 7, whatever the latches were (41_serial_bus.md R146). -/
theorem byteSeq_end (pins : Pins) (b : Byte) :
    performEvents pins (byteSeq p b) = ⟨0#1, b.extractLsb' 7 1, .output⟩ := by rw [byteSeq, hack]; rfl

theorem byteSeq_line (c d : Bit) (b : Byte) :
    sampledBits ⟨c, d, .output⟩ (byteSeq p b) = bitsLsbFirst b ∧ clkRises ⟨c, d, .output⟩ (byteSeq p b) = 9 ∧
    highClockChanges ⟨c, d, .output⟩ (byteSeq p b) = [] := by
  have hbits : performEvents ⟨c, d, .output⟩ ((bitsLsbFirst b).flatMap bitEvents) = ⟨1#1, b.extractLsb' 7 1, .output⟩ := by
    have h := bitsSeq_eq b
    rw [show (bitsLsbFirst b).flatMap bitEvents = bitsSeq b from h.symm]; rfl
  obtain ⟨hsampled, hrises, hchanges⟩ := bits_line (bitsLsbFirst b) c d
  obtain ⟨-, hsampled', hrises', hchanges'⟩ := ackSeq_line (b.extractLsb' 7 1)
  rw [byteSeq_eq_bits, hack, sampledBits_append, clkRises_append, highClockChanges_append, hbits, hsampled, hrises, hchanges,
    hsampled', hrises', hchanges', List.append_nil]
  exact ⟨rfl, rfl, rfl⟩

/-- Byte frames one after the other, from a driven line. -/
theorem byteSeqs_line (bs : List Byte) (c d : Bit) :
    ∃ c' d', performEvents ⟨c, d, .output⟩ (bs.flatMap (byteSeq p)) = ⟨c', d', .output⟩ ∧
      sampledBits ⟨c, d, .output⟩ (bs.flatMap (byteSeq p)) = bs.flatMap bitsLsbFirst := by
  induction bs generalizing c d with
  | nil => exact ⟨c, d, rfl, rfl⟩
  | cons b bs ih =>
    obtain ⟨c', d', hend, hsampled⟩ := ih 0#1 (b.extractLsb' 7 1)
    refine ⟨c', d', ?_, ?_⟩
    · rw [List.flatMap_cons, performEvents_append, byteSeq_end hack, hend]
    · rw [List.flatMap_cons, sampledBits_append, byteSeq_end hack, (byteSeq_line hack c d b).1, hsampled, List.flatMap_cons]

theorem sampledBits_session (d : Bit) (a : BitVec 4) (patterns : List Byte) (level : BitVec 3) :
    sampledBits ⟨1#1, d, .output⟩ (sessionSeq p a patterns level)
      = bitsLsbFirst p.cmdData ++ [0#1] ++ (bitsLsbFirst (addrByte p a) ++ patterns.flatMap bitsLsbFirst) ++ [0#1]
        ++ bitsLsbFirst (ctrlByte p level) ++ [0#1] := by
  obtain ⟨c, e, hend, hsampled⟩ := byteSeqs_line hack patterns 0#1 ((addrByte p a).extractLsb' 7 1)
  simp only [sessionSeq, sampledBits_append, startSeq_line, byteSeq_end hack, byteSeq_line hack, turnaround_line, hend,
    hsampled, stopSeq_line, List.nil_append, List.append_assoc]

/-- A session ends in the idle state of the bus (41_serial_bus.md R144, R148). -/
theorem performEvents_session (pins : Pins) (a : BitVec 4) (patterns : List Byte) (level : BitVec 3) :
    performEvents pins (sessionSeq p a patterns level) = ⟨1#1, 1#1, .output⟩ := by
  rw [sessionSeq, performEvents_append, performEvents_append, byteSeq_end hack]
  exact (stopSeq_line ..).1

/-- The line discipline, with the levels that each segment leaves for the next (41_serial_bus.md R157). -/
theorem highClockChanges_segments (gs : List Segment) (c d : Bit) (hidle : c = 0#1 ∨ d = 1#1) :
    (highClockChanges ⟨c, d, .output⟩ (gs.flatMap (segmentEvents p))).map (fun x => x.2) = conditionsOf gs := by
  induction gs generalizing c d with
  | nil => rfl
  | cons g gs ih =>
    rw [List.flatMap_cons, highClockChanges_append, List.map_append]
    cases g with
    | start =>
      obtain ⟨hend, hchanges⟩ := startSeq_changes c d hidle
      rw [segmentEvents, hend, hchanges, ih _ _ (.inl rfl)]; rfl
    | stop =>
      obtain ⟨hend, -, hchanges⟩ := stopSeq_line c d
      rw [segmentEvents, hend, hchanges, ih _ _ (.inr rfl)]; rfl
    | byte b =>
      rw [segmentEvents, byteSeq_end hack, (byteSeq_line hack c d b).2.2, ih _ _ (.inl rfl)]; rfl

end

/-! ### The bus steps of a whole list -/

/-- The whole of Q performed, with no pin failure (41_serial_bus.md R141). -/
def State.drained (s : State) : State := { s.setPins (performEvents s.pins s.q) with
  q := [], wireTrace := s.wireTrace ++ s.q.map .performed, pinFaults := s.pinFaults.drop s.q.length }

theorem drained_idle {s : State} (hq : s.q = []) : s.drained = s := by
  cases s; cases hq
  simp [State.drained, State.setPins, State.pins, performEvents]

theorem drained_performHead {s : State} {e : PinEvent} {es : List PinEvent} (hq : s.q = e :: es) :
    (s.takeAnswer.performHead e es).drained = s.drained := by
  simp [State.drained, hq, State.performHead, State.setPins, State.pins, performEvents]

theorem busSteps_drained {s : State} (h : s.pinsAnswerOk = true) : busSteps s.q.length s = s.drained := by
  obtain ⟨es, hes⟩ : ∃ es, s.q = es := ⟨_, rfl⟩
  induction es generalizing s with
  | nil => rw [hes, drained_idle hes]; rfl
  | cons e es ih =>
    have hstep := busStep_ok hes (pinFault_of_answerOk h)
    have hq : (busStep s).q = es := by rw [hstep]; rfl
    have hrest := ih (busStep_pinsAnswerOk h) hq
    rw [hq, hstep, drained_performHead hes] at hrest
    rw [hes, List.length_cons, busSteps, hstep, hrest]

theorem busStep_rescheduled (s : State) (turns : List Turn) (k : Nat) :
    busStep { s with turns := turns, stepNo := k } = { busStep s with turns := turns, stepNo := k } := by
  obtain ⟨hq, hs⟩ | ⟨e, rest, hq, ⟨hf, hs⟩ | ⟨hf, hs⟩⟩ := busStep_cases s <;> rw [hs]
  · exact busStep_idle hq
  · exact busStep_failed (s := { s with turns := turns, stepNo := k }) hq hf
  · exact busStep_ok (s := { s with turns := turns, stepNo := k }) hq hf

/-- The turns of the serial engine are bus steps, whatever is scheduled after them. -/
theorem run_serial (n : Nat) (s : State) (rest : List Turn) (k : Nat) :
    core.run n { s with turns := List.replicate n .serial ++ rest, stepNo := k }
      = .next { busSteps n s with turns := rest, stepNo := k + n } := by
  induction n generalizing s k with
  | zero => rfl
  | succ n ih =>
    have hfirst : step { s with turns := List.replicate (n + 1) .serial ++ rest, stepNo := k }
        = .next { busStep s with turns := List.replicate n .serial ++ rest, stepNo := k + 1 } :=
      (step_serial rfl).trans (congrArg _ (busStep_rescheduled s _ _))
    rw [run_next hfirst, ih (busStep s) (k + 1), Nat.add_assoc, Nat.add_comm 1 n]; rfl

/-- As many turns of the serial engine as Q has events perform the whole of it and write nothing but the pins, Q and the wire
trace. -/
theorem run_drains {s : State} {rest : List Turn} (h : s.pinsAnswerOk = true)
    (hturns : s.turns = List.replicate s.q.length .serial ++ rest) :
    ∃ t, core.run s.q.length s = .next t ∧ t = { s with
      clkOut := t.clkOut, dioOut := t.dioOut, dioDir := t.dioDir, q := [],
      wireTrace := s.wireTrace ++ s.q.map .performed, pinFaults := t.pinFaults, turns := rest, stepNo := t.stepNo } ∧
      t.pins = performEvents s.pins s.q := by
  have hrun := run_serial s.q.length s rest s.stepNo
  rw [← hturns, busSteps_drained h] at hrun
  exact ⟨_, hrun, rfl, rfl⟩

/-! ### A whole session -/

/-- SET_SEGMENTS accepted (41_serial_bus.md R155). -/
def State.sessionAccepted (s : State) (addr n : BitVec 4) : State := { s with
  port := none, errCode := .ok, q := sessionSeq s.params addr (s.patterns n) s.bright }

/-- The host's step with a legal SET_SEGMENTS on the port of an idle engine accepts it. -/
theorem step_setSegments {s : State} {addr n : BitVec 4} {rest : List Turn} (hmbpe : s.IsMbpe) (hq : s.q = [])
    (hport : s.port = some (encode (.setSegments addr n))) (haddr : addr.toNat ≤ 5) (hn : addr.toNat + n.toNat ≤ 6)
    (hturns : s.turns = .host :: rest) : step s = .next ((s.sessionAccepted addr n).scheduled rest) := by
  have hrange : sessionInRange (s.scheduled rest).params.consts addr n = true :=
    hmbpe ▸ (mbpe_sessionInRange addr n).2 ⟨haddr, hn⟩
  have hfree : (s.scheduled rest).holds (encode (.setSegments addr n)) = false := by simp [State.holds, State.busy, hq]
  rw [step_thread (h := .caller) hturns, hostStep_accepts (s := s.scheduled rest) hport hfree,
    presentWord_ok (decode_encode _), exec_idle (s := s.scheduled rest) hq, setSegments_inRange hrange]
  rfl

end Sys2Proof.Machine
end

section
/-! PROOFS. The statements of 41_serial_bus.md on the line, on what a receiver reads, and on the bus steps of a whole list
(R141, R145 to R148, R156, R157, R160; 20_memory.md R78). -/

namespace Sys2Proof.Proofs

open Sys2Proof.Machine

/-- Settles O41: the lists written out, a byte's of 24 events and the acknowledgement. -/
theorem eventCounts : Obligations.EventCounts :=
  fun p a patterns level b hack => ⟨rfl, rfl, rfl, by rw [byteSeq_length, hack], sessionSeq_length hack a patterns level⟩

/-- Settles O42: each data bit is a rise with the bit on the line, and the acknowledgement's one rise is not driven. -/
theorem byteFrameCarriesByte : Obligations.ByteFrameCarriesByte := by
  rintro p ⟨c, d, _⟩ b hack rfl
  obtain ⟨hsampled, hrises, -⟩ := byteSeq_line hack c d b
  exact ⟨hrises, hsampled, byteSeq_end hack _ b⟩

/-- Settles O43: the session's parts are read one after the other, and the level view leaves out no rise. -/
theorem sessionCarriesItsBytes : Obligations.SessionCarriesItsBytes := by
  rintro p ⟨_, d, _⟩ a patterns level hack rfl rfl
  exact ⟨sampledBits_session hack d a patterns level, sampledBits_levelChanges _ _⟩

/-- Settles O44: each segment, from the levels that any segment can end in, has its one condition or none. -/
theorem lineDiscipline : Obligations.LineDiscipline := by
  rintro p ⟨c, d, _⟩ gs hack rfl hidle
  exact highClockChanges_segments hack gs c d hidle

/-- Settles O39: each bus step performs the head of Q, until none is left. -/
theorem busStepsDrainQueueInOrder : Obligations.BusStepsDrainQueueInOrder := by
  intro s hclean hok
  rw [busSteps_drained hok]
  exact ⟨hclean, rfl, rfl, rfl, rfl⟩

/-- Settles O46: the host's step accepts the command, which puts the session into Q, and the serial engine's turns perform all
of it. -/
theorem setSegmentsCompletesSession : Obligations.SetSegmentsCompletesSession := by
  intro s addr n rest hclean hmbpe hack hq hok hport haddr hn hturns
  have haccept := step_setSegments hmbpe hq hport haddr hn hturns
  let u := (s.sessionAccepted addr n).scheduled (List.replicate (111 + 29 * n.toNat) .serial ++ rest)
  have hlength : u.q.length = 111 + 29 * n.toNat :=
    (sessionSeq_length (by rw [hack]; rfl) ..).trans (by rw [s.patterns_length (by omega)])
  have hpins : performEvents u.pins u.q = ⟨1#1, 1#1, .output⟩ := performEvents_session hack ..
  obtain ⟨t, hdrain, ht, hend⟩ := run_drains (s := u) hok (by rw [hlength])
  rw [hpins] at hend
  refine ⟨t, ?run, finalObservation_clean ?clean, ?trace, by rw [ht], by rw [ht]; rfl, by rw [ht]; rfl,
    congrArg Pins.clk hend, congrArg Pins.dio hend, congrArg Pins.dir hend, by rw [ht], by rw [ht]; rfl⟩
  case run => rw [show 112 + 29 * n.toNat = u.q.length + 1 by omega, run_next haccept, hdrain]
  case clean => rw [ht]; exact hclean
  case trace => rw [ht]; rfl

end Sys2Proof.Proofs
end

section
/-! SUPPORT. The decimal text of a number (42_host_display_ops.md R184). -/

namespace Sys2Proof.Machine

/-! ### Decimal digits -/

/-- The decimal of a natural number: its digits without leading zeros, "0" for 0 (42_host_display_ops.md R184). -/
def naturalText (n : Nat) : List Byte :=
  if n = 0 then [0x30#8] else (Nat.digits 10 n).reverse.map fun d => BitVec.ofNat 8 (0x30 + d)

theorem naturalText_of_lt {n : Nat} (h : n < 10) : naturalText n = [digitCode n] := by
  rw [naturalText, digitCode, Nat.mod_eq_of_lt h]
  split
  · next hzero => rw [hzero]
  · next hpos => rw [Nat.digits_of_lt 10 n hpos h]; rfl

theorem naturalText_of_ge {n : Nat} (h : 10 ≤ n) : naturalText n = naturalText (n / 10) ++ [digitCode n] := by
  have hn : n ≠ 0 := by omega
  have hdiv : n / 10 ≠ 0 := by omega
  rw [naturalText, naturalText, if_neg hn, if_neg hdiv, Nat.digits_def' (by decide) (by omega), List.reverse_cons,
    List.map_append]
  rfl

/-- With fuel for the number's digits the model's recursion gives all of them. -/
theorem decimalDigits_eq {fuel n : Nat} (h : n < 10 ^ (fuel + 1)) : decimalDigits fuel n = naturalText n := by
  induction fuel generalizing n with
  | zero => exact (naturalText_of_lt h).symm
  | succ fuel ih =>
    rw [decimalDigits]
    split
    · next hlt => exact (naturalText_of_lt hlt).symm
    · next hge =>
      have hdiv : n / 10 < 10 ^ (fuel + 1) := by rw [Nat.div_lt_iff_lt_mul (by decide), ← Nat.pow_succ]; exact h
      rw [naturalText_of_ge (Nat.not_lt.1 hge), ih hdiv]

theorem decimalDigits_length_le {fuel n k : Nat} (h : n < 10 ^ (k + 1)) : (decimalDigits fuel n).length ≤ k + 1 := by
  induction fuel generalizing n k with
  | zero => exact Nat.le_add_left 1 k
  | succ fuel ih =>
    rw [decimalDigits]
    split
    · exact Nat.le_add_left 1 k
    · next hge =>
      cases k with
      | zero => exact absurd h hge
      | succ k =>
        have hdiv : n / 10 < 10 ^ (k + 1) := by rw [Nat.div_lt_iff_lt_mul (by decide), ← Nat.pow_succ]; exact h
        rw [List.length_append]
        exact Nat.succ_le_succ (ih hdiv)

theorem decimalDigits_codes {fuel n : Nat} {c : Byte} (h : c ∈ decimalDigits fuel n) : ∃ k, c = digitCode k := by
  induction fuel generalizing n with
  | zero => exact ⟨n, List.mem_singleton.1 h⟩
  | succ fuel ih =>
    rw [decimalDigits] at h
    split at h
    · exact ⟨n, List.mem_singleton.1 h⟩
    · obtain h | h := List.mem_append.1 h
      · exact ih h
      · exact ⟨n, List.mem_singleton.1 h⟩

/-! ### The text of an integer in range -/

theorem decimalText_eq {m : Int} (hlo : -999 ≤ m) (hhi : m ≤ 9999) :
    decimalText m = (if m < 0 then [0x2D#8] else []) ++ naturalText m.natAbs := by
  have hdigits : decimalDigits 3 m.natAbs = naturalText m.natAbs := decimalDigits_eq (by omega)
  rw [decimalText, hdigits]
  split <;> rfl

theorem decimalText_length_le {m : Int} (hlo : -999 ≤ m) (hhi : m ≤ 9999) : (decimalText m).length ≤ 4 := by
  rw [decimalText]
  split
  · exact Nat.succ_le_succ (decimalDigits_length_le (k := 2) (by omega))
  · exact decimalDigits_length_le (k := 3) (by omega)

theorem digitCode_encodable (k : Nat) : charIndex (digitCode k) ≠ none := by
  have hdigit : ∀ d < 10, charIndex (BitVec.ofNat 8 (0x30 + d)) ≠ none := by decide
  exact hdigit (k % 10) (Nat.mod_lt k (by decide))

theorem decimalText_encodable {m : Int} {c : Byte} (h : c ∈ decimalText m) : charIndex c ≠ none := by
  rw [decimalText] at h
  split at h
  · obtain rfl | h := List.mem_cons.1 h
    · decide
    · obtain ⟨k, rfl⟩ := decimalDigits_codes h
      exact digitCode_encodable k
  · obtain ⟨k, rfl⟩ := decimalDigits_codes h
    exact digitCode_encodable k

/-! ### Justification and clamping -/

theorem rightJustify_length {width : Nat} {text : List Byte} (h : text.length ≤ width) :
    (rightJustify width text).length = width := by
  rw [rightJustify, List.length_append, List.length_replicate]; omega

theorem rightJustify_encodable {width : Nat} {text : List Byte} (h : ∀ c ∈ text, charIndex c ≠ none) :
    ∀ c ∈ rightJustify width text, charIndex c ≠ none := by
  intro c hc
  obtain hc | hc := List.mem_append.1 hc
  · rw [List.eq_of_mem_replicate hc]; decide
  · exact h c hc

theorem numberText_inRange {n : Int} (hlo : -999 ≤ n) (hhi : n ≤ 9999) : numberText n = rightJustify 4 (decimalText n) := by
  rw [numberText, max_eq_left hlo, min_eq_left hhi]

theorem numberText_above {n : Int} (h : 9999 ≤ n) : numberText n = numberText 9999 := by
  have hclamp : min (max n (-999)) 9999 = min (max 9999 (-999)) 9999 := by omega
  rw [numberText, hclamp]; rfl

theorem numberText_below {n : Int} (h : n ≤ -999) : numberText n = numberText (-999) := by
  have hclamp : min (max n (-999)) 9999 = min (max (-999) (-999)) 9999 := by omega
  rw [numberText, hclamp]; rfl

end Sys2Proof.Machine
end

section
/-! PROOFS. The statement of 42_host_display_ops.md on the text of NUMBER (R184). -/

namespace Sys2Proof.Proofs

open Sys2Proof.Machine

/-- Settles O58: the clamped number has at most four characters, the model's digits are the decimal ones, and spaces, a dash
and digits are all encodable. -/
theorem numberTextFitsDisplay : Obligations.NumberTextFitsDisplay := by
  refine ⟨fun n hlo hhi => ?_, fun n => ⟨?_, ?_, numberText_above, numberText_below⟩⟩
  · have htext := decimalText_eq hlo hhi
    simp only [naturalText, Int.natAbs_eq_zero] at htext
    dsimp only
    rw [← htext]
    exact ⟨decimalText_length_le hlo hhi, numberText_inRange hlo hhi⟩
  · exact rightJustify_length (decimalText_length_le (by omega) (by omega))
  · exact rightJustify_encodable fun c hc => decimalText_encodable hc

end Sys2Proof.Proofs
end

section
/-! SUPPORT. Runs of the host's programs that encode a text: a command for each character with the check of its result after
it (42_host_display_ops.md R182, R186, 40_seg_encoder.md R129), with the host moving alone. -/

namespace Sys2Proof.Machine

/-! ### The caller's acts -/

/-- The caller has taken an act off its program, of which `acts` is left. -/
def State.acted (s : State) (rest : List Turn) (acts : List HostAct) : State := { s.scheduled rest with hostProg := acts }

section
variable {s : State} {rest : List Turn} {acts : List HostAct} (hturns : s.turns = .host :: rest) (hport : s.port = none)
include hturns hport

/-- A command that the caller issues and the block accepts is performed in the caller's step. -/
theorem step_issue {i : Instr} (hacts : s.hostProg = issueCmd i :: acts) (hacc : acceptedNow i s = true) :
    step s = .next (commandEffect i { s.acted rest acts with portThread := .caller }) := by
  have hstep := step_act (h := .caller) hturns hacts (.inl hport)
  have hfree : acceptedNow i { s.acted rest acts with port := some (encode i), portThread := .caller } = true := hacc
  have hexec := (presentWord_ok (decode_encode i) _).trans (exec_accepted hfree)
  have haccepted : State.accept { s.acted rest acts with port := some (encode i), portThread := .caller }
      = { s.acted rest acts with portThread := .caller } := by rw [State.accept, ← hport]; rfl
  rw [haccepted] at hexec
  exact hstep.trans hexec

/-- A legal SET_SEGMENTS that the caller issues to an idle engine is accepted (41_serial_bus.md R155). -/
theorem step_issue_setSegments {addr n : BitVec 4} (hmbpe : s.IsMbpe) (hq : s.q = [])
    (hacts : s.hostProg = issueCmd (.setSegments addr n) :: acts) (haddr : addr.toNat ≤ 5) (hn : addr.toNat + n.toNat ≤ 6) :
    step s = .next { (s.sessionAccepted addr n).acted rest acts with portThread := .caller } := by
  have hrange : sessionInRange s.params.consts addr n = true := hmbpe ▸ (mbpe_sessionInRange addr n).2 ⟨haddr, hn⟩
  rw [step_issue hturns hport hacts (by simp [acceptedNow, State.busy, hq]),
    ← accept_of_free (s := { s.acted rest acts with portThread := .caller }) hport, setSegments_inRange (by exact hrange)]
  rfl

/-- A check that finds no error goes on with the program. -/
theorem step_check_ok {n : Nat} {position : Option Nat} (hacts : s.hostProg = .abandonOnError n position :: acts)
    (herr : s.errCode = .ok) : step s = .next (s.acted rest acts) :=
  (step_act (h := .caller) hturns hacts (.inl hport)).trans (congrArg _ (if_pos herr))

/-- A check that finds an error reports it and leaves `n` acts out (42_host_display_ops.md R182). -/
theorem step_check_failed {n : Nat} {position : Option Nat} (hacts : s.hostProg = .abandonOnError n position :: acts)
    (herr : s.errCode ≠ .ok) : step s = .next ((s.reportHostError position).acted rest (acts.drop n)) :=
  (step_act (h := .caller) hturns hacts (.inl hport)).trans (congrArg _ (if_neg herr))

end

/-! ### A command for each character, with its check -/

/-- The loop of TEXT_SESSION and of SCROLL: the command `cmd j c` for the character `c` at `j`, and a check that reports
`position j` and leaves out the rest of the loop and `after` acts more. -/
def checkedProg (cmd : Nat → Byte → Instr) (position : Nat → Option Nat) (after j : Nat) (text : List Byte) :
    List HostAct :=
  match text with
  | [] => []
  | c :: rest =>
    issueCmd (cmd j c) :: .abandonOnError (2 * rest.length + after) (position j)
      :: checkedProg cmd position after (j + 1) rest

theorem loadChars_eq_checkedProg (point : Bit) (after j : Nat) (text : List Byte) :
    loadChars point after j text
      = checkedProg (fun j c => .segLoadChar (BitVec.ofNat 3 j) c point) (fun _ => none) after j text := by
  induction text generalizing j with
  | nil => rfl
  | cons c rest ih => rw [loadChars, checkedProg, ih]

theorem scrollCheck_eq_checkedProg (after j : Nat) (text : List Byte) :
    scrollCheck after j text = checkedProg (fun _ c => .encodeChar c 0) some after j text := by
  induction text generalizing j with
  | nil => rfl
  | cons c rest ih => rw [scrollCheck, checkedProg, ih]

section
variable (cmd : Nat → Byte → Instr) (position : Nat → Option Nat)

theorem checkedProg_length (after j : Nat) (text : List Byte) :
    (checkedProg cmd position after j text).length = 2 * text.length := by
  induction text generalizing j with
  | nil => rfl
  | cons c rest ih => rw [checkedProg, List.length_cons, List.length_cons, ih, List.length_cons]; omega

theorem checkedProg_append (after j : Nat) (text text' : List Byte) :
    checkedProg cmd position after j (text ++ text')
      = checkedProg cmd position (2 * text'.length + after) j text
        ++ checkedProg cmd position after (j + text.length) text' := by
  induction text generalizing j with
  | nil => rfl
  | cons c text ih =>
    have hleft : 2 * (text ++ text').length + after = 2 * text.length + (2 * text'.length + after) := by
      rw [List.length_append]; omega
    have hnext : j + 1 + text.length = j + (text.length + 1) := by omega
    rw [List.cons_append, checkedProg, checkedProg, ih, hleft, hnext]; rfl

end

/-- The patterns stored one after the other from entry `j` on. -/
def storeAll (store : Vector Byte 6 → Nat → Byte → Vector Byte 6) (buf : Vector Byte 6) (j : Nat) (patterns : List Byte) :
    Vector Byte 6 :=
  match patterns with
  | [] => buf
  | b :: bs => storeAll store (store buf j b) (j + 1) bs

/-- The commands `cmd j c`, for `j` within a limit, encode the character with the point bit: a pattern is stored with `store`,
and an invalid character is reported with the position `pos j` (40_seg_encoder.md R127, 41_serial_bus.md R153). -/
structure Encodes (p : Params) (point : Bit) (limit : Nat) (cmd : Nat → Byte → Instr)
    (store : Vector Byte 6 → Nat → Byte → Vector Byte 6) (pos : Nat → BitVec 3) : Prop where
  valid : ∀ {s : State} {j : Nat} {c b : Byte}, s.params = p → j < limit → encodePattern p c point = some b →
    commandEffect (cmd j c) s
      = { s with segBuf := store s.segBuf j b, result := (commandEffect (cmd j c) s).result, errCode := .ok }
  invalid : ∀ {s : State} {j : Nat} {c : Byte}, s.params = p → j < limit → encodePattern p c point = none →
    commandEffect (cmd j c) s = { s with errCode := .invalidCharacter, errChar := c, errPos := pos j }

/-! ### The encoding of a text -/

theorem encodeStringFrom_cons_ok {p : Params} {point : Bit} {j : Nat} {c : Byte} {rest bs : List Byte}
    (h : encodeStringFrom p point j (c :: rest) = .ok bs) :
    ∃ b bs', bs = b :: bs' ∧ encodePattern p c point = some b ∧ encodeStringFrom p point (j + 1) rest = .ok bs' := by
  rw [encodeStringFrom] at h
  split at h
  · cases h
  · next b hb =>
    split at h
    · next bs' hbs => cases h; exact ⟨b, bs', rfl, hb, hbs⟩
    · cases h

theorem encodeStringFrom_ok_length {p : Params} {point : Bit} {j : Nat} {text bs : List Byte}
    (h : encodeStringFrom p point j text = .ok bs) : bs.length = text.length := by
  induction text generalizing j bs with
  | nil => cases h; rfl
  | cons c text ih =>
    obtain ⟨b, bs', rfl, -, hbs⟩ := encodeStringFrom_cons_ok h
    rw [List.length_cons, ih hbs, List.length_cons]

/-- The error names the first invalid character, with encodable ones before it (40_seg_encoder.md R129). -/
theorem encodeStringFrom_error {p : Params} {point : Bit} {j : Nat} {text : List Byte} {char : Byte} {pos : Nat}
    (h : encodeStringFrom p point j text = .error (char, pos)) :
    ∃ valid rest bs, text = valid ++ char :: rest ∧ pos = j + valid.length ∧
      encodeStringFrom p point j valid = .ok bs ∧ encodePattern p char point = none := by
  induction text generalizing j with
  | nil => cases h
  | cons c text ih =>
    rw [encodeStringFrom] at h
    split at h
    · next hnone => cases h; exact ⟨[], text, [], rfl, rfl, rfl, hnone⟩
    · next b hb =>
      split at h
      · cases h
      · next e herr =>
        cases h
        obtain ⟨valid, rest, bs, rfl, hpos, hvalid, hchar⟩ := ih herr
        refine ⟨c :: valid, rest, b :: bs, rfl, by rw [hpos, List.length_cons]; omega, ?_, hchar⟩
        simp only [encodeStringFrom, hb, hvalid]

/-! ### Runs of the loop -/

section
variable {p : Params} {point : Bit} {limit : Nat} {cmd : Nat → Byte → Instr}
  {store : Vector Byte 6 → Nat → Byte → Vector Byte 6} {pos : Nat → BitVec 3} {position : Nat → Option Nat}
  (henc : Encodes p point limit cmd store pos) {s : State} (hp : s.params = p) (hport : s.port = none)
include henc hp hport

/-- An encodable character: its pattern is stored, and the check goes on. -/
theorem run_valid_character {j n : Nat} {c b : Byte} {acts : List HostAct} {rest : List Turn} (hj : j < limit)
    (hacc : acceptedNow (cmd j c) s = true) (hb : encodePattern p c point = some b)
    (hprog : s.hostProg = issueCmd (cmd j c) :: .abandonOnError n (position j) :: acts)
    (hturns : s.turns = .host :: .host :: rest) :
    ∃ t : State, (∀ m, core.run (m + 2) s = core.run m t) ∧ t = { s with
      segBuf := store s.segBuf j b, result := t.result, errCode := .ok, portThread := .caller, hostProg := acts,
      turns := rest, stepNo := t.stepNo } := by
  have hissue := step_issue hturns hport hprog hacc
  have heffect := henc.valid (s := { s.acted (.host :: rest) (.abandonOnError n (position j) :: acts) with
    portThread := .caller }) hp hj hb
  generalize commandEffect (cmd j c) _ = u at hissue heffect
  have hcheck := step_check_ok (s := u) (rest := rest) (acts := acts) (n := n) (position := position j)
    (by rw [heffect]; rfl) (by rw [heffect]; exact hport) (by rw [heffect]; rfl) (by rw [heffect])
  refine ⟨_, fun m => (run_next hissue (m + 1)).trans (run_next hcheck m), ?_⟩
  rw [heffect]; rfl

/-- An invalid character: it is reported with its position, and the rest of the loop and what follows are left out. -/
theorem run_invalid_character {j n : Nat} {c : Byte} {acts : List HostAct} {rest : List Turn} (hj : j < limit)
    (hacc : acceptedNow (cmd j c) s = true) (hb : encodePattern p c point = none)
    (hprog : s.hostProg = issueCmd (cmd j c) :: .abandonOnError n (position j) :: acts)
    (hturns : s.turns = .host :: .host :: rest) :
    ∃ t : State, core.run 2 s = .next t ∧ t = { s with
      errCode := .invalidCharacter, errChar := c, errPos := pos j, portThread := .caller, hostProg := acts.drop n,
      hostErrors := s.hostErrors ++ [{ char := c, position := (position j).getD (pos j).toNat }],
      turns := rest, stepNo := t.stepNo } := by
  have hissue := step_issue hturns hport hprog hacc
  rw [henc.invalid (by exact hp) hj hb] at hissue
  have hcheck := step_check_failed (s := { s.acted (.host :: rest) (.abandonOnError n (position j) :: acts) with
    errCode := .invalidCharacter, errChar := c, errPos := pos j, portThread := .caller }) rfl hport rfl nofun
  exact ⟨_, (run_next hissue 1).trans (run_next hcheck 0), rfl⟩

end

section
variable {p : Params} {point : Bit} {limit : Nat} {cmd : Nat → Byte → Instr}
  {store : Vector Byte 6 → Nat → Byte → Vector Byte 6} {pos : Nat → BitVec 3} {position : Nat → Option Nat}
  (henc : Encodes p point limit cmd store pos)
include henc

/-- The loop over a text of encodable characters stores their patterns and changes nothing else of the block but RESULT and
ERR_CODE. -/
theorem run_checkedProg {s : State} {text bs : List Byte} {after j : Nat} {acts : List HostAct} {rest : List Turn}
    (hp : s.params = p) (hport : s.port = none) (hacc : ∀ j c, acceptedNow (cmd j c) s = true)
    (hprog : s.hostProg = checkedProg cmd position after j text ++ acts)
    (hturns : s.turns = List.replicate (2 * text.length) .host ++ rest) (hlimit : j + text.length ≤ limit)
    (htext : encodeStringFrom p point j text = .ok bs) :
    ∃ t : State, (∀ m, core.run (m + 2 * text.length) s = core.run m t) ∧ t = { s with
      segBuf := storeAll store s.segBuf j bs, result := t.result, errCode := t.errCode, portThread := t.portThread,
      hostProg := acts, turns := rest, stepNo := t.stepNo } := by
  induction text generalizing s j bs with
  | nil =>
    cases htext
    exact ⟨s, fun _ => rfl, by rw [← show s.hostProg = acts from hprog, ← show s.turns = rest from hturns]; rfl⟩
  | cons c text ih =>
    obtain ⟨b, bs', rfl, hb, hbs⟩ := encodeStringFrom_cons_ok htext
    rw [List.length_cons] at hlimit
    obtain ⟨u, hrun, hu⟩ := run_valid_character henc hp hport (by omega) (hacc j c) hb hprog hturns
    obtain ⟨t, hrun', ht⟩ := ih (s := u) (by rw [hu]; exact hp) (by rw [hu]; exact hport)
      (fun j c => by rw [hu]; exact hacc j c) (by rw [hu]; rfl) (by rw [hu]; rfl) (by omega) hbs
    refine ⟨t, fun m => (hrun (m + 2 * text.length)).trans (hrun' m), ?_⟩
    rw [ht, hu]
    rfl

/-- The loop over a text with an invalid character ends at the first one. -/
theorem run_checkedProg_error {s : State} {text : List Byte} {acts : List HostAct} {rest : List Turn} {char : Byte} {k : Nat}
    (hp : s.params = p) (hport : s.port = none) (hacc : ∀ j c, acceptedNow (cmd j c) s = true)
    (hprog : s.hostProg = checkedProg cmd position acts.length 0 text ++ acts)
    (hturns : s.turns = List.replicate (2 * k + 2) .host ++ rest) (hlimit : text.length ≤ limit)
    (htext : encodeStringFrom p point 0 text = .error (char, k)) :
    ∃ (t : State) (bs : List Byte), core.run (2 * k + 2) s = .next t ∧ t = { s with
      segBuf := storeAll store s.segBuf 0 bs, result := t.result, errCode := .invalidCharacter, errChar := char,
      errPos := pos k, portThread := .caller, hostProg := [],
      hostErrors := s.hostErrors ++ [{ char := char, position := (position k).getD (pos k).toNat }],
      turns := rest, stepNo := t.stepNo } ∧ k < text.length := by
  obtain ⟨valid, text', bs, rfl, hk, hvalid, hchar⟩ := encodeStringFrom_error htext
  rw [Nat.zero_add] at hk
  subst hk
  rw [List.length_append, List.length_cons] at hlimit
  rw [checkedProg_append, List.append_assoc, Nat.zero_add] at hprog
  rw [List.replicate_add, List.append_assoc] at hturns
  obtain ⟨u, hrun, hu⟩ := run_checkedProg henc hp hport hacc hprog hturns (by omega) hvalid
  obtain ⟨t, hrun', ht⟩ := run_invalid_character henc (s := u) (j := valid.length) (rest := rest)
    (acts := checkedProg cmd position acts.length (valid.length + 1) text' ++ acts)
    (by rw [hu]; exact hp) (by rw [hu]; exact hport) (by omega) (by rw [hu]; exact hacc _ _) hchar
    (by rw [hu]; rfl) (by rw [hu]; rfl)
  have hleft : (checkedProg cmd position acts.length (valid.length + 1) text' ++ acts).drop (2 * text'.length + acts.length)
      = [] := by
    rw [List.drop_eq_nil_iff, List.length_append, checkedProg_length]
  refine ⟨t, bs, ?_, ?_, ?_⟩
  · rw [Nat.add_comm, hrun, hrun']
  · rw [ht, hleft, hu]
  · rw [List.length_append, List.length_cons]; omega

end

/-! ### The commands of TEXT_SESSION and of SCROLL -/

theorem encodes_segLoadChar {p : Params} (hmbpe : p.consts = mbpeConstants) (point : Bit) :
    Encodes p point 6 (fun j c => .segLoadChar (BitVec.ofNat 3 j) c point) (fun buf j b => buf.setIfInBounds j b)
      (BitVec.ofNat 3) := by
  have hidx : ∀ {j : Nat}, j < 6 → (BitVec.ofNat 3 j).toNat = j := fun hj => by rw [BitVec.toNat_ofNat]; omega
  have hrange : ∀ {s : State} {j : Nat}, s.params = p → j < 6 → idxInRange s.params.consts (BitVec.ofNat 3 j) = true := by
    intro s j hp hj
    rw [hp, hmbpe, mbpe_idxInRange, hidx hj, decide_eq_true hj]
  refine ⟨fun {s j c b} hp hj hb => ?_, fun {s j c} hp hj hb => ?_⟩
  · have heffect : commandEffect (.segLoadChar (BitVec.ofNat 3 j) c point) s
        = { s with segBuf := s.segBuf.setIfInBounds j b, errCode := .ok } := by
      rw [commandEffect, segLoadCharEffect_valid (hrange hp hj) (by rw [hidx hj]; exact hj) (hp ▸ hb),
        ← setIfInBounds_eq_set, hidx hj]
    rw [heffect]
  · exact segLoadCharEffect_invalid (hrange hp hj) (hp ▸ hb)

theorem encodes_encodeChar (p : Params) (limit : Nat) :
    Encodes p 0 limit (fun _ c => .encodeChar c 0) (fun buf _ _ => buf) fun _ => 0#3 := by
  refine ⟨fun {s j c b} hp _ hb => ?_, fun {s j c} hp _ hb => ?_⟩
  · rw [commandEffect, encodeEffect_valid (hp ▸ hb)]
  · exact encodeEffect_invalid (hp ▸ hb)

theorem storeAll_ignoring (buf : Vector Byte 6) (j : Nat) (bs : List Byte) :
    storeAll (fun buf _ _ => buf) buf j bs = buf := by
  induction bs generalizing j with
  | nil => rfl
  | cons b bs ih => exact ih (j + 1)

/-- The patterns stored from entry `j` on stand there, after the entries before. -/
theorem take_storeAll {buf : Vector Byte 6} {j : Nat} {bs : List Byte} (h : j + bs.length ≤ 6) :
    (storeAll (fun buf j b => buf.setIfInBounds j b) buf j bs).toList.take (j + bs.length) = buf.toList.take j ++ bs := by
  induction bs generalizing buf j with
  | nil => exact (List.append_nil _).symm
  | cons b bs ih =>
    rw [List.length_cons] at h
    have hj : j < buf.toList.length := by rw [Vector.length_toList]; omega
    have hstored : (buf.setIfInBounds j b).toList.take (j + 1) = buf.toList.take j ++ [b] := by
      have hbefore : (buf.toList.take j).length = j := by rw [List.length_take]; omega
      rw [Vector.toList_setIfInBounds, List.set_eq_take_append_cons_drop, if_pos hj, List.take_append, hbefore]
      simp
    have hnext : j + (b :: bs).length = j + 1 + bs.length := by rw [List.length_cons]; omega
    rw [storeAll, hnext, ih (by omega), hstored, List.append_assoc]
    rfl

end Sys2Proof.Machine
end

section
/-! PROOFS. The statements of 42_host_display_ops.md on TEXT_SESSION and SCROLL (R182, R186). -/

namespace Sys2Proof.Proofs

open Sys2Proof.Machine

/-- Settles O59: the loop stores the patterns, and the caller's last act puts the session of the buffer's first entries into
Q. -/
theorem textSessionQueuesEncodedText : Obligations.TextSessionQueuesEncodedText := by
  intro s text point addr patterns rest hclean hmbpe haddr hlength hq hport hprog hturns htext
  rw [textSession, loadChars_eq_checkedProg] at hprog
  rw [List.replicate_add, List.append_assoc] at hturns
  obtain ⟨t, hrun, ht⟩ := run_checkedProg (encodes_segLoadChar hmbpe point) rfl hport
    (fun j c => by simp [acceptedNow, State.busy, hq]) hprog hturns (by omega) htext
  have hcount : (BitVec.ofNat 4 text.length).toNat = text.length := by rw [BitVec.toNat_ofNat]; omega
  have hbuf : t.segBuf.toList.take text.length = patterns := by
    have hpatterns := encodeStringFrom_ok_length htext
    have hstored := take_storeAll (buf := s.segBuf) (j := 0) (bs := patterns) (by omega)
    rw [ht]
    rwa [Nat.zero_add, hpatterns] at hstored
  have hissue := step_issue_setSegments (s := t) (rest := rest) (acts := []) (by rw [ht]; rfl) (by rw [ht]; exact hport)
    (by rw [ht]; exact hmbpe) (by rw [ht]; exact hq) (by rw [ht]) haddr (by omega)
  have hend := (hrun 1).trans (run_next hissue 0)
  rw [Nat.add_comm] at hend
  refine ⟨_, hend, finalObservation_clean ?clean, ?queue, hbuf, rfl, ?wire, ?errors, rfl, rfl⟩
  case clean => show t.faults = []; rw [ht]; exact hclean
  case queue =>
    show sessionSeq t.params addr (t.segBuf.toList.take (BitVec.ofNat 4 text.length).toNat) t.bright = _
    rw [hcount, hbuf, ht]
  case wire => show t.wireTrace = _; rw [ht]
  case errors => show t.hostErrors = _; rw [ht]

/-- Settles O60: the loop ends at the first invalid character, and a SEG_LOAD_CHAR or an ENCODE leaves the bus alone. -/
theorem textSessionAbandonsInvalidText : Obligations.TextSessionAbandonsInvalidText := by
  constructor
  · intro s text point addr char k rest hclean hmbpe hlength hq hport hprog hturns htext
    rw [textSession, loadChars_eq_checkedProg] at hprog
    obtain ⟨t, _, hrun, ht, hk⟩ := run_checkedProg_error (encodes_segLoadChar hmbpe point)
      (acts := [issueCmd (.setSegments addr (BitVec.ofNat 4 text.length))]) rfl hport
      (fun j c => by simp [acceptedNow, State.busy, hq]) hprog hturns hlength htext
    have hpos : (BitVec.ofNat 3 k).toNat = k := by rw [BitVec.toNat_ofNat]; omega
    refine ⟨t, hrun, finalObservation_clean (by rw [ht]; exact hclean), ?_⟩
    rw [ht]
    exact ⟨hq, rfl, rfl, hport, rfl, rfl, hpos, by rw [Option.getD_none, hpos], rfl⟩
  · intro s text char k rest hclean hport hprog hturns htext
    rw [scrollProg, scrollCheck_eq_checkedProg] at hprog
    obtain ⟨t, _, hrun, ht, -⟩ := run_checkedProg_error (encodes_encodeChar s.params text.length) rfl hport
      (fun _ _ => rfl) hprog hturns le_rfl htext
    refine ⟨t, hrun, finalObservation_clean (by rw [ht]; exact hclean), ?_⟩
    rw [ht]
    exact ⟨rfl, storeAll_ignoring .., rfl, rfl, rfl, rfl⟩

end Sys2Proof.Proofs
end
